-- ==== Sys2Proof/Word.lean ====
section
/-! DEFINITION. The widths and number ranges of 00_scope.md ("Conventions", "Numbering"). -/

namespace Sys2Proof

/-- A word of the processor bus and of the array, 32 bits. -/
abbrev Word := BitVec 32

/-- A byte of a word; byte 0 holds bits 7..0. -/
abbrev Byte := BitVec 8

/-- The four byte enables of a write; bit i enables byte i. -/
abbrev ByteEnables := BitVec 4

/-- A word address of the 22-bit array bus. -/
abbrev Address := BitVec 22

/-- A call reference, 1..65535; 0 means no call. -/
abbrev CallRef := BitVec 16

/-- A 16-bit two's complement audio sample. -/
abbrev Sample := BitVec 16

/-- A line, 0..1023. -/
abbrev LineNo := Fin 1024

/-- A hunt group, 0..63. -/
abbrev GroupNo := Fin 64

/-- A member position, 0..31, within one group. -/
abbrev MemberPos := Fin 32

/-- A pickup group, 0..63, where 0 means none. -/
abbrev PickupNo := Fin 64

/-- A zone, 0..23; zone z is on link z / 8, slot z mod 8. -/
abbrev ZoneNo := Fin 24

/-- A page, 0..15. -/
abbrev PageNo := Fin 16

/-- A park slot, 0..15. -/
abbrev ParkNo := Fin 16

/-- A clip, 0..63. -/
abbrev ClipNo := Fin 64

/-- A tone pattern, 1..15, where 0 means none. -/
abbrev PatternNo := Fin 16

/-- A page target, 0..31. -/
abbrev TargetNo := Fin 32

/-- A live channel, 0..3. -/
abbrev LiveNo := Fin 4

/-- A request slot, 0..15. -/
abbrev SlotNo := Fin 16

/-- Memory as a list of byte addresses and bytes (the array, and the copies of the watched words). -/
abbrev Memory := List Host.Cell

end Sys2Proof
end

