-- ==== Sys2Proof/Syntax.lean ====
section
/-! DEFINITION. The commands of the block: one constructor for each row of spec/opcode_table.json. -/

namespace Sys2Proof

/-- A command of the EH6420. A write command carries the word it writes, the data and the byte enables. -/
inductive Instr where
  /-- RESET_PIN_FALL (R181). -/
  | resetPinFall
  /-- RESET_PIN_RELEASE (R181), with the four strap pins (R174). -/
  | resetPinRelease (straps : BitVec 4)
  /-- PLANT_TIME_TICK (R177). -/
  | plantTimeTick
  /-- PLAIN_WRITE (R173), at any word address. -/
  | plainWrite (addr : Address) (data : Word) (be : ByteEnables)
  /-- MASTER_BURST_START (R178): in a gap, or, with `read`, when a processor read that uses the array port arrives and may be
  held (R180). Log entry 9. -/
  | masterBurstStart (read : Bool)
  /-- SCAN_BURST_END (R182). -/
  | scanBurstEnd
  /-- LINE_PRESENTATION (R20). -/
  | linePresentation
  /-- LINE_STATE_WRITE (R2): word 0 of a line. -/
  | lineStateWrite (line : LineNo) (data : Word) (be : ByteEnables)
  /-- LINE_CONFIG_WRITE (R3): word 1 of a line. -/
  | lineConfigWrite (line : LineNo) (data : Word) (be : ByteEnables)
  /-- GROUP_HEADER_WRITE (R21). -/
  | groupHeaderWrite (group : GroupNo) (word : Fin 8) (data : Word) (be : ByteEnables)
  /-- MEMBER_WORD_WRITE (R23). -/
  | memberWordWrite (group : GroupNo) (position : MemberPos) (data : Word) (be : ByteEnables)
  /-- PERMISSION_WRITE (R53). -/
  | permissionWrite (pickup : PickupNo) (word : Fin 2) (data : Word) (be : ByteEnables)
  /-- CONTROL_WORD_WRITE (R29, R61): SA 0x0009. -/
  | controlWordWrite (data : Word) (be : ByteEnables)
  /-- LINK_ENABLE_WRITE (R148): SA 0x0008. -/
  | linkEnableWrite (data : Word) (be : ByteEnables)
  /-- ZONE_RECORD_WRITE (R121). -/
  | zoneRecordWrite (zone : ZoneNo) (word : Fin 8) (data : Word) (be : ByteEnables)
  /-- PAGE_TARGET_WRITE (R75). -/
  | pageTargetWrite (target : TargetNo) (data : Word) (be : ByteEnables)
  /-- TONE_PATTERN_WRITE (R107): step word 0..7 of a pattern, or its repeat word (8). -/
  | tonePatternWrite (pattern : PatternNo) (word : Fin 9) (data : Word) (be : ByteEnables)
  /-- CLIP_DIRECTORY_WRITE (R101). -/
  | clipDirectoryWrite (clip : ClipNo) (word : Fin 2) (data : Word) (be : ByteEnables)
  /-- LIVE_BUFFER_WRITE (R113). -/
  | liveBufferWrite (channel : LiveNo) (word : Fin 128) (data : Word) (be : ByteEnables)
  /-- CONSUMER_INDEX_WRITE (R167): SA 0x0005. -/
  | consumerIndexWrite (data : Word) (be : ByteEnables)
  /-- INTERRUPT_WORD_WRITE (R169): SA 0x0006. -/
  | interruptWordWrite (data : Word) (be : ByteEnables)
  /-- PARAMETER_WORD_WRITE (R158): P0..P3 of a slot. -/
  | parameterWordWrite (slot : SlotNo) (word : Fin 4) (data : Word) (be : ByteEnables)
  /-- CMD_WRITE (R155). -/
  | cmdWrite (slot : SlotNo) (data : Word) (be : ByteEnables)
  /-- HUNT (R47), taken from a slot. -/
  | hunt
  /-- CANCEL (R19), taken from a slot. -/
  | cancel
  /-- SIGN_IN (R48), taken from a slot. -/
  | signIn
  /-- SIGN_OUT (R48), taken from a slot. -/
  | signOut
  /-- SET_NIGHT (R49), taken from a slot. -/
  | setNight
  /-- SET_DAY (R49), taken from a slot. -/
  | setDay
  /-- GROUP_PICKUP (R56), taken from a slot. -/
  | groupPickup
  /-- DIRECTED_PICKUP (R57), taken from a slot. -/
  | directedPickup
  /-- PARK (R62), taken from a slot. -/
  | park
  /-- RETRIEVE (R67), taken from a slot. -/
  | retrieve
  /-- PAGE_START (R93), taken from a slot. -/
  | pageStart
  /-- PAGE_END (R94), taken from a slot. -/
  | pageEnd
  /-- RESTART (R185), taken from a slot. -/
  | restart
  /-- UNKNOWN_COMMAND (R159), taken from a slot. -/
  | unknownCommand
  /-- CONFIRM_TIMER_EXPIRY (R31) of the reservation a line carries. -/
  | confirmTimerExpiry (line : LineNo)
  /-- NO_ANSWER_TIMER_EXPIRY (R33) of a call. -/
  | noAnswerTimerExpiry (ref : CallRef)
  /-- OVERFLOW_WAIT_EXPIRY (R42) of a call. -/
  | overflowWaitExpiry (ref : CallRef)
  /-- FLOOR_DELAY_EXPIRY (R45) of a call. -/
  | floorDelayExpiry (ref : CallRef)
  /-- PARK_TIMER_EXPIRY (R68) of a park slot. -/
  | parkTimerExpiry (slot : ParkNo)
  /-- WAIT_LIMIT_EXPIRY (R87) of a page. -/
  | waitLimitExpiry (page : PageNo)
  /-- MAX_DURATION_EXPIRY (R89) of a page. -/
  | maxDurationExpiry (page : PageNo)
  /-- SAMPLE_PRODUCE (R111) by a page's player context. -/
  | sampleProduce (page : PageNo)
  /-- BLOCK_FETCH_LANDS (R103). -/
  | blockFetchLands
  /-- NOTICE_POSTING_COMPLETE (R166). -/
  | noticePostingComplete
  /-- HOLDOFF_EXPIRY (R170). -/
  | holdoffExpiry
  /-- FRAME_START (R147). -/
  | frameStart
  /-- MIC_SAMPLE (R117): the 128 bits that each zone's microphone gave since the last sample, bit 0 the first; the 24 chains take
  them at the same edges (R116). `order` is that of `blockComplete`, for blocks that are still to complete. -/
  | micSample (order : List ZoneNo) (bits : Vector (BitVec 128) 24)
  /-- BLOCK_COMPLETE (R123): the blocks of the zones complete at the same instant (R116, R119). The manual gives no order for what
  several zones then hand on, so the sender does: the zones of `order` first, the others behind them. -/
  | blockComplete (order : List ZoneNo)
  /-- RESUME_TIMER_EXPIRY (R124). -/
  | resumeTimerExpiry (zone : ZoneNo)
  /-- RAMP_TIMER_EXPIRY (R138). -/
  | rampTimerExpiry (zone : ZoneNo)
  deriving DecidableEq, Repr

end Sys2Proof
end

