-- ==== Sys2Proof/Config.lean ====
section
/-! DEFINITION. What the part fixes, and the one value the manual leaves open. -/

namespace Sys2Proof

/-- The part identity (R172, R177). -/
def Config.identity : Nat := 0x6420

/-- The part revision (R172, R177). -/
def Config.revision : Nat := 1

/-- The number of call records in the Call Table (R6). -/
def Config.callRecords : Nat := 128

/-- The most lines a ringing set holds (R8). -/
def Config.ringingLimit : Nat := 32

/-- The most overflows a call makes (R43). -/
def Config.hopLimit : Nat := 4

/-- The number of notices the NTU's internal queue holds (R165). -/
def Config.noticeQueue : Nat := 32

/-- The most records the notice ring holds (R166). -/
def Config.ringLimit : Nat := 255

/-- The number of samples a zone FIFO holds (R144). -/
def Config.fifoDepth : Nat := 64

/-- The number of bursts of the start-up scan (R182). -/
def Config.scanBursts : Nat := 670

/-- FREE VALUE. How many further words of a notice posting's four have been written when the posting is cut
(R171, R181): the manual leaves it open. Log entry 8. -/
opaque Config.freeCut : Nat → Nat

end Sys2Proof
end

