-- ==== Sys2Proof/Machine/State.lean ====
section
/-! DEFINITION. The state of the EH6420 as plain data, block by block as 00_scope.md's block overview gives it,
the state after reset, and the reasons a step can stop (none arises). -/

namespace Sys2Proof.Machine

/-- No command of this block stops the part: what the manual calls a fault is a notice. Nothing raises one. -/
inductive Fault where
  deriving DecidableEq, Repr

/-- The host's constructor for a command without a meaning; no arm of `exec` uses it (safe: it never arises). -/
inductive Refusal where
  /-- The command has no meaning in this model. Raised by nothing here. -/
  | notModelled (mnemonic : String)
  deriving DecidableEq, Repr

/-! ### Lines (01_lines_and_call_tracking.md) -/

/-- The state of a line shadow with its call reference, present only in RINGING and TALKING (R1). -/
inductive LineState where
  | idle
  | busy
  | ringing (ref : CallRef)
  | talking (ref : CallRef)
  | outOfService
  deriving DecidableEq, Repr

/-- The field a CONFIG_FAULT names (R164, values in 11.6). -/
inductive FaultField where
  | code | reference | pickupGroup | capacity | ringTime | overflowWait | floorPriority | threshold | autoSignOut
  | duplicate | confirmWindow | parkTime | consumer | rise | fall | q | high | low | line | silLevel | resume
  | window | gmax | gb | gdef | slope | ramp | address | frequency | level
  deriving DecidableEq, Repr

/-- The region a CONFIG_FAULT names (R164). -/
inductive FaultRegion where
  | lineState | lineConfig | groupHeader | member | control | zone | clipDirectory | tonePattern
  deriving DecidableEq, Repr

/-- A CONFIG_FAULT: its region, field and index within the region (R164). -/
structure ConfigFault where
  region : FaultRegion
  field : FaultField
  index : Nat
  deriving DecidableEq, Repr

/-- One line shadow (R1). The reservation names its call by the call's reference. -/
structure LineShadow where
  state : LineState
  pickup : PickupNo
  directedAny : Bool
  noPickupFrom : Bool
  reservation : Option CallRef
  deriving DecidableEq, Repr

/-- The Line Monitor's state (R1, R5, R20). -/
structure Lmon where
  /-- The 1024 line shadows (R1). -/
  shadows : Vector LineShadow 1024
  /-- The Idle Order, oldest entry to IDLE first (R5). -/
  idleOrder : List LineNo
  /-- The CONFIG_FAULTs of line words noted during SCANNING (R20). -/
  noted : List (LineNo × ConfigFault)
  /-- The next line of the presentation, 1024 when none is running (R20, R184). -/
  presenting : Nat
  deriving DecidableEq, Repr

/-! ### Calls, hunt groups and parks (01, 02_hunt_groups.md, 03_pickup_and_park.md) -/

/-- A ringing-set entry, and whether it joined by a confirmed offer (R8, R30). -/
structure RingEntry where
  line : LineNo
  offered : Bool
  deriving DecidableEq, Repr

/-- A reservation of a call and the expiry of its confirm timer (R4, R29). -/
structure Reservation where
  line : LineNo
  confirmAt : Nat
  deriving DecidableEq, Repr

/-- The state of a call record (R6). -/
inductive CallState where
  | queued | offered | ringing
  deriving DecidableEq, Repr

/-- What a HUNT record keeps beside a DIRECT record's fields (R6). A timer is its expiry, `none` when stopped. -/
structure HuntPart where
  /-- The current group. -/
  group : GroupNo
  /-- The hop count, 0..4 (R43). -/
  hops : Fin 5
  priority : Fin 4
  /-- The caller line, when HUNT gave one (R47). -/
  caller : Option LineNo
  /-- The tried set, the position that failed last first (R27). -/
  tried : List MemberPos
  floorFlag : Bool
  noAnswerAt : Option Nat
  overflowAt : Option Nat
  floorAt : Option Nat
  deriving DecidableEq, Repr

/-- A call record in use (R6); `hunt` is `none` for a DIRECT record. -/
structure CallRecord where
  ref : CallRef
  state : CallState
  /-- The ringing set, in order of joining (R8). -/
  ringing : List RingEntry
  /-- The reservation set, in line-number order (R4). -/
  reservations : List Reservation
  hunt : Option HuntPart
  deriving DecidableEq, Repr

/-- The selection mode of a hunt group (R21, R27). -/
inductive GroupMode where
  | linear | circular | longestIdle | allRing
  deriving DecidableEq, Repr

/-- Page priorities, BACKGROUND 0 to EMERGENCY 3 (00_scope.md, "Priorities"). -/
inductive PagePriority where
  | background | normal | urgent | emergency
  deriving DecidableEq, Repr

/-- The decoded group header (R21). Times are in seconds. -/
structure GroupConfig where
  mode : GroupMode
  capacity : Nat
  ringTime : Nat
  overflowTarget : Option GroupNo
  overflowWait : Nat
  floorTarget : Option TargetNo
  floorDelay : Nat
  floorPriority : PagePriority
  ringPattern : PatternNo
  alarm : Nat
  autoSignOut : Nat
  linkedPickup : PickupNo
  initialNight : Bool
  deriving DecidableEq, Repr

/-- One member position (R23, R24, R34). -/
structure Member where
  line : LineNo
  valid : Bool
  initialSignIn : Bool
  signedIn : Bool
  /-- Consecutive no-answer count, 0..7. -/
  noAnswers : Nat
  deriving DecidableEq, Repr

/-- A hunt group: its shadow, service state, hunt pointer, last evaluated floor condition and members. -/
structure HuntGroup where
  config : GroupConfig
  night : Bool
  huntPointer : MemberPos
  floorCondition : Bool
  members : Vector Member 32
  deriving DecidableEq, Repr

/-- An occupied park slot (R60). -/
structure Park where
  ref : CallRef
  parker : Option LineNo
  held : Option LineNo
  /-- The expiry of the park timer. -/
  expiry : Nat
  /-- The linked page. -/
  page : Option PageNo
  deriving DecidableEq, Repr

/-- The Distribution Engine's state. -/
structure Deng where
  /-- The call records in use, in Presentation Order (R6, R7): at most 128. -/
  calls : List CallRecord
  groups : Vector HuntGroup 64
  /-- P(p), one flag per pickup group (R53). -/
  permissions : Vector (BitVec 64) 64
  parks : Vector (Option Park) 16
  /-- The confirm window in ms (R29). -/
  confirmWindow : Nat
  /-- The park time in s (R61). -/
  parkTime : Nat
  deriving DecidableEq, Repr

/-! ### Pages (04_pages_and_zones.md) -/

/-- The origin of a page (R73). -/
inductive PageOrigin where
  | request
  | group (g : GroupNo)
  | park (s : ParkNo)
  deriving DecidableEq, Repr

/-- The source of a page (R73); a floor-ring page of ring pattern 0 has `tone 0` (R96). -/
inductive PageSource where
  | live (k : LiveNo)
  | clip (c : ClipNo)
  | tone (t : PatternNo)
  deriving DecidableEq, Repr

/-- The acquisition policy (R80, R81). -/
inductive PagePolicy where
  | partialZones
  | allOrWait
  deriving DecidableEq, Repr

/-- The state of a page record in use (R73). -/
inductive PageState where
  | pending | preamble | active | releasing
  deriving DecidableEq, Repr

/-- The end causes of a page (R90). -/
inductive EndCause where
  | request | sourceDone | sourceFault | maxDuration | linked | waitLimit
  deriving DecidableEq, Repr

/-- A page record in use (R73). Its held set is read from the holder table (R78). -/
structure PageRec where
  origin : PageOrigin
  target : TargetNo
  source : PageSource
  priority : PagePriority
  policy : PagePolicy
  preamble : PatternNo
  trim : Int
  state : PageState
  /-- Whether the page has entered ACTIVE (tells the two RELEASING cases of R114 apart). -/
  wasActive : Bool
  /-- The wanted set, ascending (R77). -/
  wanted : List ZoneNo
  endCause : Option EndCause
  /-- Maximum duration in s, 0 for none, and its timer (R89). -/
  maxDuration : Nat
  maxAt : Option Nat
  /-- Wait limit in s, 0 for none, and its timer (R87). -/
  waitLimit : Nat
  waitAt : Option Nat
  deriving DecidableEq, Repr

/-- A held zone's entry in the holder table (R78), with the priority and trim PCTL passes on (R134). -/
structure Holder where
  page : PageNo
  priority : PagePriority
  trim : Int
  lettingGo : Bool
  deriving DecidableEq, Repr

/-- The Page Controller's state. -/
structure Pctl where
  pages : Vector (Option PageRec) 16
  /-- The Page Order (R74). -/
  pageOrder : List PageNo
  /-- The zone holder table (R78). -/
  holders : Vector (Option Holder) 24
  /-- The Floor Ring Wait list (R97). -/
  waitList : List GroupNo
  /-- The zone set of each page target (R75). -/
  targets : Vector (BitVec 24) 32
  /-- The zone enables (R76). -/
  enabled : Vector Bool 24
  deriving DecidableEq, Repr

/-! ### Clips and tones (05_clips_and_tones.md) -/

/-- A decoded clip directory entry (R101). -/
structure ClipEntry where
  addr : Address
  blocks : Nat
  repeats : Nat
  /-- In units of 100 ms. -/
  gap : Nat
  deriving DecidableEq, Repr

/-- A decoded tone step (R107): frequency in Hz with 0 for a pause, level, duration in units of 10 ms. -/
structure ToneStep where
  frequency : Nat
  level : Nat
  duration : Nat
  deriving DecidableEq, Repr

/-- A decoded tone pattern (R107). -/
structure TonePattern where
  steps : Vector ToneStep 8
  repeats : Nat
  deriving DecidableEq, Repr

/-- What a tone context is started for (R110). -/
inductive ToneUse where
  | preamble | source | floorRing
  deriving DecidableEq, Repr

/-- A running tone context (R108, R109). -/
structure ToneCtx where
  use : ToneUse
  pattern : PatternNo
  /-- The step playing, and its fields as taken when it began (R109). -/
  step : Fin 8
  current : ToneStep
  /-- Samples of the step still to produce. -/
  left : Nat
  phase : BitVec 16
  /-- Passes completed. -/
  passes : Nat
  /-- A floor-ring source found its pattern empty and produces zeros (R110). -/
  silent : Bool
  deriving DecidableEq, Repr

/-- A clip block buffer (R102); `rest` holds the samples not yet produced. -/
inductive Buffer where
  | empty
  | awaiting (index : Nat)
  | full (index count : Nat) (final : Bool) (rest : List Sample)
  deriving DecidableEq, Repr

/-- A running clip context (R102); the directory entry is the context's. -/
structure ClipCtx where
  clip : ClipNo
  /-- Passes completed. -/
  passes : Nat
  /-- The index of the next block to fetch. -/
  nextBlock : Nat
  /-- Whether a block is still to fetch (R103, R104). -/
  toFetch : Bool
  /-- Gap samples still to produce. -/
  gapLeft : Nat
  bufA : Buffer
  bufB : Buffer
  /-- The playing buffer is B. -/
  playingB : Bool
  /-- The page's first block has landed (R105). -/
  landed : Bool
  /-- An underrun episode is in progress (R105). -/
  underrun : Bool
  deriving DecidableEq, Repr

/-- What a player context plays. -/
inductive Playing where
  | idle
  | live (k : LiveNo)
  | tone (t : ToneCtx)
  | clip (c : ClipCtx)
  deriving DecidableEq, Repr

/-- A player context (R102, R106): the directory entry copied when its page was made, and what plays. -/
structure Context where
  entry : ClipEntry
  playing : Playing
  /-- A frame has given a page that feeds no enabled link its one sample (R111). -/
  frameDue : Bool
  deriving DecidableEq, Repr

/-- A clip block fetch asked of the PTU (R102, R179). -/
structure Fetch where
  toB : Bool
  index : Nat
  addr : Address
  /-- Bursts that have ended, 0..3; the fourth ends with the landing. -/
  bursts : Nat
  /-- The words that those bursts have read. -/
  data : List Word
  /-- The context was cleared since the request (R103). -/
  stale : Bool
  deriving DecidableEq, Repr

/-- The Clip and Tone Player's state, with the live path's overrun marks (R114). -/
structure Ctp where
  contexts : Vector Context 16
  fetches : Vector (Option Fetch) 16
  overrun : Vector Bool 24
  patterns : Vector TonePattern 16
  directory : Vector ClipEntry 64
  deriving DecidableEq, Repr

/-! ### Noise and level (06_ambient_noise_measurement.md, 07_zone_level_and_output_links.md) -/

/-- The zone record fields AMON decodes (R121). -/
structure AmonFields where
  mic : Bool
  adapt : Nat
  rise : Nat
  fall : Nat
  quiet : Nat
  high : Nat
  low : Nat
  silLevel : Nat
  /-- Silence time in s. -/
  silTime : Nat
  /-- Resume delay in units of 10 ms. -/
  resume : Nat
  deriving DecidableEq, Repr

/-- The decimator (R117): the last 128 bit values, first sums and second sums, newest first. -/
structure Decimator where
  bits : List Int
  first : List Int
  second : List Int
  deriving DecidableEq, Repr

/-- The window states (R125). -/
inductive WindowState where
  | normal | loud | micSilent
  deriving DecidableEq, Repr

/-- A zone's freeze (R124): not in force, in force, or in force until the resume timer's expiry. -/
inductive Freeze where
  | off
  | held
  | resuming (expiry : Nat)
  deriving DecidableEq, Repr

/-- A zone's measurement context (06, R130). -/
structure AmonZone where
  fields : AmonFields
  decimator : Decimator
  /-- The accumulator D (R118). -/
  dc : Int
  blockSum : Nat
  blockCount : Nat
  /-- The noise estimate NE, in sixteenths (R123). -/
  ne : Nat
  window : WindowState
  silence : Nat
  freeze : Freeze
  /-- Some part of the present block fell inside a freeze (R123, R124). -/
  tainted : Bool
  deriving DecidableEq, Repr

/-- The gain fields ZOS decodes (R132). -/
structure GainFields where
  gmax : Nat
  gb : Nat
  gdef : Nat
  slope : Nat
  /-- In ms. -/
  ramp : Nat
  deriving DecidableEq, Repr

/-- A zone's output stage (R152). -/
structure ZosZone where
  gain : GainFields
  gt : Nat
  ga : Nat
  /-- The ramp timer's expiry, `none` when stopped (R138). -/
  rampAt : Option Nat
  /-- Oldest sample first (R144). -/
  fifo : List Sample
  deriving DecidableEq, Repr

/-- The Zone Output Stage's state. -/
structure Zos where
  zones : Vector ZosZone 24
  /-- The link enables as decoded (R148). -/
  linkEnable : BitVec 3
  /-- The link enables as the last frame start took them (R147, R148). -/
  linkNow : BitVec 3
  /-- The slot values of the frame in progress, by zone (R146, R147). -/
  slotOut : Vector Sample 24
  deriving DecidableEq, Repr

/-! ### Request slots (08_request_slots.md) -/

/-- The result codes (08, 11.4). -/
inductive ResultCode where
  | ok | badParam | noCall | callExists | tableFull | groupBusy | deflected | nothing | notPermitted | notMember
  | parkBusy | parkEmpty | sourceBusy | noPageSlot | noZones | unknownCommand
  deriving DecidableEq, Repr

/-- The four parameter words of a snapshot (R154). -/
structure Params where
  p0 : Word
  p1 : Word
  p2 : Word
  p3 : Word
  deriving DecidableEq, Repr

/-- The state of a request slot (R154). -/
inductive SlotState where
  | idle | pending | done
  deriving DecidableEq, Repr

/-- A refused CMD write (R156, R157). -/
structure CmdRefusal where
  code : BitVec 8
  tag : BitVec 8
  partialWrite : Bool
  deriving DecidableEq, Repr

/-- A request slot record (R154). -/
structure SlotRec where
  state : SlotState
  code : BitVec 8
  tag : BitVec 8
  snapshot : Params
  result : ResultCode
  result0 : Word
  result1 : Word
  noted : Option CmdRefusal
  deriving DecidableEq, Repr

/-- The Request Unit's state. -/
structure Rqu where
  slots : Vector SlotRec 16
  /-- The slot last taken (R159). -/
  pointer : SlotNo
  deriving DecidableEq, Repr

/-! ### Notices (09_notice_ring_and_interrupt.md) -/

/-- Why an offer lapsed (R164). -/
inductive LapseReason where
  | line | window
  deriving DecidableEq, Repr

/-- Why a line is withdrawn (R164). -/
inductive WithdrawReason where
  | noAnswer | answeredElsewhere | abandoned | cancelled | overflow | deflected | picked
  deriving DecidableEq, Repr

/-- Why a call is deflected (R44). -/
inductive DeflectReason where
  | hops | noTarget
  deriving DecidableEq, Repr

/-- Why a ring is not tracked (R14). -/
inductive TrackReason where
  | set | table
  deriving DecidableEq, Repr

/-- The value of a PAGE_STATE notice (R92). -/
inductive PageNoticeState where
  | pending | preamble | active | releasing | ended
  deriving DecidableEq, Repr

/-- Why a page lost a zone (R164). -/
inductive ZoneLostReason where
  | preempted | disabled | loud | target
  deriving DecidableEq, Repr

/-- An audio fault's reason (R164). -/
inductive AudioFaultReason where
  | clipFormat | noFinal | underrun | liveOverrun
  deriving DecidableEq, Repr

/-- A notice by its kind, with the fields R164 gives the kind. -/
inductive Notice where
  | offer (g : GroupNo) (ref : CallRef) (line : LineNo)
  | offerLapsed (g : GroupNo) (reason : LapseReason) (ref : CallRef) (line : LineNo)
  | withdraw (reason : WithdrawReason) (ref : CallRef) (line : LineNo)
  | answered (g : Option GroupNo) (ref : CallRef) (line : LineNo)
  | queued (g : GroupNo) (position : Nat) (ref : CallRef)
  | overflow (fromGroup toGroup : GroupNo) (hops : Nat) (ref : CallRef)
  | deflect (g : GroupNo) (hops : Nat) (reason : DeflectReason) (ref : CallRef)
  | abandonedCall (g : GroupNo) (ref : CallRef) (line : LineNo)
  | abandonedPark (slot : ParkNo) (ref : CallRef) (line : LineNo)
  | memberOut (g : GroupNo) (position : MemberPos) (line : LineNo)
  | parkRecall (slot : ParkNo) (ref : CallRef) (parker held : Option LineNo)
  | pageState (page : PageNo) (value : PageNoticeState) (cause : Option EndCause) (origin : PageOrigin)
      (priority : PagePriority)
  | zoneLost (page : PageNo) (zone : ZoneNo) (reason : ZoneLostReason) (taker : Option PageNo)
  /-- `level` is the LC of the applied block for cause BLOCK, `none` for cause CONFIG (R129). -/
  | noiseState (zone : ZoneNo) (previous new : WindowState) (nl : Nat) (level : Option Nat)
  /-- `source` is the clip or the live channel; `detail` the block index, or the zone for LIVE_OVERRUN. -/
  | audioFault (page : PageNo) (reason : AudioFaultReason) (source detail : Nat)
  | configFault (fault : ConfigFault)
  | reqRefused (slot : SlotNo) (refusal : CmdRefusal)
  | trackFull (reason : TrackReason) (ref : CallRef) (line : LineNo)
  | ringOverrun (drops : Nat)
  | ready (restart : Bool) (count : BitVec 16)
  deriving DecidableEq, Repr

/-- A notice in the internal queue and the plant time at which it was raised (R163, R165). -/
structure Queued where
  notice : Notice
  stamp : BitVec 32
  deriving DecidableEq, Repr

/-- A CONFIG_FAULT noted during SCANNING, and the tone step it is about (0 in the other regions). -/
structure NotedFault where
  fault : ConfigFault
  step : Nat
  deriving DecidableEq, Repr

/-- The Notice Unit's state. -/
structure Ntu where
  /-- The internal queue, oldest first (R165). -/
  queue : List Queued
  drops : Nat
  producer : BitVec 8
  consumer : BitVec 8
  threshold : Nat
  /-- In ms, 0 for off (R169). -/
  holdoff : Nat
  /-- The posting time of the record at each ring position (R166). -/
  postedAt : Vector (BitVec 32) 256
  /-- The interrupt output (R170). -/
  interrupt : Bool
  /-- The CONFIG_FAULTs noted during SCANNING, in the order they will be raised (R184). -/
  noted : List NotedFault
  deriving DecidableEq, Repr

/-! ### The pass-through unit (10_bus_pass_through_service_area_and_start_up.md) -/

/-- The operating state (R177, R181). -/
inductive OperatingState where
  | resetLow | scanning | ready
  deriving DecidableEq, Repr

/-- The master burst on the array port whose end is a command of its own (R178). -/
inductive Burst where
  | scan
  | posting
  /-- The next burst of a page's fetch. -/
  | fetch (p : PageNo)
  deriving DecidableEq, Repr

/-- A watched word of the Service Area, named by what it holds. -/
inductive Watched where
  | consumer
  | interruptWord
  | linkEnables
  | control
  | param (n : SlotNo) (i : Fin 4)
  | cmd (n : SlotNo)
  | header (g : GroupNo) (i : Fin 8)
  | member (g : GroupNo) (i : MemberPos)
  | permission (p : PickupNo) (i : Fin 2)
  | zone (z : ZoneNo) (i : Fin 8)
  | target (t : TargetNo)
  | toneStep (t : PatternNo) (i : Fin 8)
  | toneRepeat (t : PatternNo)
  | clip (c : ClipNo) (i : Fin 2)
  | lineState (l : LineNo)
  | lineConfig (l : LineNo)
  | live (k : LiveNo) (i : Fin 128)
  deriving DecidableEq, Repr

/-- A processor access that uses the array port (R173): a write at an address, a write of a watched word, or a read. -/
inductive Access where
  | plain (addr : Address) (data : Word) (be : ByteEnables)
  | watched (word : Watched) (data : Word) (be : ByteEnables)
  | read
  deriving DecidableEq, Repr

/-- The Pass-Through Unit's state. -/
structure Ptu where
  mode : OperatingState
  saBase : BitVec 4
  plantTime : BitVec 32
  /-- The model's own count of ms since the release of the reset pin, the base of every timer. Log entry 6. -/
  clock : Nat
  restartCount : BitVec 16
  /-- How many of the scan's bursts have ended (R182). -/
  scanned : Nat
  /-- The slot of the RESTART in progress (R161). -/
  restartSlot : Option SlotNo
  /-- The copies of the watched words, by byte offset in the SA (R175). -/
  copies : Memory
  /-- The array, by byte address. -/
  array : Memory
  burst : Option Burst
  /-- The hold mark (R180). -/
  holdMark : Bool
  /-- The processor's accesses that wait for the port, first in first out (R178). Log entry 9. -/
  waiting : List Access
  /-- The first access that waits has been held: its one burst ran, or is on the port (R180). Log entry 9. -/
  heldAccess : Bool
  /-- The rotation pointer for clip fetches (R179). -/
  fetchPointer : PageNo
  /-- The index of the next free value of Config (the model's own). Log entry 8. -/
  freeCount : Nat
  deriving DecidableEq, Repr

/-- The whole state: the nine blocks and the queue of waiting commands. -/
structure State where
  /-- The commands waiting, first in first out. Log entry 4. -/
  pending : List Instr
  ptu : Ptu
  lmon : Lmon
  deng : Deng
  pctl : Pctl
  ctp : Ctp
  amon : Vector AmonZone 24
  zos : Zos
  rqu : Rqu
  ntu : Ntu
  deriving DecidableEq, Repr

/-! ### Power-on values -/

/-- A line shadow at power-on and at RESTART (R1). -/
def LineShadow.initial : LineShadow := ⟨.busy, 0, false, false, none⟩

/-- LMON at power-on and at RESTART (R1, R5, R20). -/
def Lmon.initial : Lmon := ⟨Vector.replicate 1024 LineShadow.initial, [], [], 1024⟩

/-- A group shadow at power-on and at RESTART (R51), its initial night flag clear.
(DESIGN CHOICE, unsafe: log entry 3) -/
def GroupConfig.initial : GroupConfig :=
  ⟨.linear, 0, 0, none, 0, none, 0, .background, 0, 0, 0, 0, false⟩

/-- A member position at power-on and at RESTART: invalid and signed out (R51), its initial sign-in flag clear and its line 0.
(DESIGN CHOICE, unsafe: log entry 3) -/
def Member.initial : Member := ⟨0, false, false, false, 0⟩

/-- A hunt group at power-on and at RESTART (R28, R51). -/
def HuntGroup.initial : HuntGroup :=
  ⟨GroupConfig.initial, false, 31, false, Vector.replicate 32 Member.initial⟩

/-- DENG at power-on and at RESTART (R6, R29, R51, R53, R60, R61). -/
def Deng.initial : Deng :=
  { calls := [], groups := Vector.replicate 64 HuntGroup.initial, permissions := Vector.replicate 64 0,
    parks := Vector.replicate 16 none, confirmWindow := 2000, parkTime := 10 }

/-- PCTL at power-on and at RESTART (R99). -/
def Pctl.initial : Pctl :=
  { pages := Vector.replicate 16 none, pageOrder := [], holders := Vector.replicate 24 none, waitList := [],
    targets := Vector.replicate 32 0, enabled := Vector.replicate 24 false }

/-- A clip directory entry at power-on (R115). -/
def ClipEntry.initial : ClipEntry := ⟨0, 0, 0, 0⟩

/-- A tone pattern at power-on: empty, repeat count 0 (R115). -/
def TonePattern.initial : TonePattern := ⟨Vector.replicate 8 ⟨0, 0, 0⟩, 0⟩

/-- An idle player context. -/
def Context.initial : Context := ⟨ClipEntry.initial, .idle, false⟩

/-- The CTP at power-on and at RESTART (R115). -/
def Ctp.initial : Ctp :=
  { contexts := Vector.replicate 16 Context.initial, fetches := Vector.replicate 16 none,
    overrun := Vector.replicate 24 false, patterns := Vector.replicate 16 TonePattern.initial,
    directory := Vector.replicate 64 ClipEntry.initial }

/-- AMON's fields at power-on and at RESTART (R130). -/
def AmonFields.initial : AmonFields := ⟨false, 0, 1, 1, 0, 0, 0, 0, 0, 0⟩

/-- A decimator before its first bit (R117). -/
def Decimator.initial : Decimator := ⟨List.replicate 128 0, List.replicate 128 0, List.replicate 128 0⟩

/-- A measurement context at power-on and at RESTART (R130). -/
def AmonZone.initial : AmonZone :=
  ⟨AmonFields.initial, Decimator.initial, 0, 0, 0, 0, .normal, 0, .off, false⟩

/-- A zone's output stage at power-on and at RESTART (R152). -/
def ZosZone.initial : ZosZone := ⟨⟨0, 0, 0, 0, 1⟩, 0, 0, none, []⟩

/-- ZOS at power-on (R150, R152). -/
def Zos.initial : Zos := ⟨Vector.replicate 24 ZosZone.initial, 0, 0, Vector.replicate 24 0⟩

/-- A request slot at power-on (R162). -/
def SlotRec.initial : SlotRec := ⟨.idle, 0, 0, ⟨0, 0, 0, 0⟩, .ok, 0, 0, none⟩

/-- The RQU at power-on (R162). -/
def Rqu.initial : Rqu := ⟨Vector.replicate 16 SlotRec.initial, 15⟩

/-- The NTU at power-on (R171). -/
def Ntu.initial : Ntu :=
  { queue := [], drops := 0, producer := 0, consumer := 0, threshold := 1, holdoff := 0,
    postedAt := Vector.replicate 256 0, interrupt := false, noted := [] }

/-- The PTU with the reset pin low (R181, R186), and an array nothing has written.
(DESIGN CHOICE, unsafe: log entry 2) -/
def Ptu.initial : Ptu :=
  { mode := .resetLow, saBase := 0, plantTime := 0, clock := 0, restartCount := 0, scanned := 0, restartSlot := none,
    copies := [], array := [], burst := none, holdMark := false, waiting := [], heldAccess := false, fetchPointer := 15,
    freeCount := 0 }

/-- The part right after power-on, its reset pin still low (R181). Log entry 3.
(DESIGN CHOICE, unsafe: log entry 3) -/
def State.reset : State :=
  { pending := [], ptu := Ptu.initial, lmon := Lmon.initial, deng := Deng.initial, pctl := Pctl.initial,
    ctp := Ctp.initial, amon := Vector.replicate 24 AmonZone.initial, zos := Zos.initial, rqu := Rqu.initial,
    ntu := Ntu.initial }

end Sys2Proof.Machine
end

