-- ==== Sys2Proof/Machine/Ops.lean ====
section
/-! DEFINITION. The operations every block shares: byte memory, updates of one table entry, timers, raising notices
and noting faults. -/

namespace Sys2Proof.Machine

/-! ### Byte memory (the array and the copies) -/

/-- The byte at an address; a byte nothing has written reads 0. Log entry 1.
(DESIGN CHOICE, unsafe: log entry 1) -/
def memByte : Memory → Nat → Byte
  | [], _ => 0
  | (k, v) :: m, a => if k = a then v else memByte m a

/-- Stores one byte, keeping the canonical form (rising addresses, no byte 0 listed). -/
def memPut : Memory → Nat → Byte → Memory
  | [], a, b => if b = 0 then [] else [(a, b)]
  | (k, v) :: m, a, b =>
    if a < k then (if b = 0 then (k, v) :: m else (a, b) :: (k, v) :: m)
    else if a = k then (if b = 0 then m else (a, b) :: m)
    else (k, v) :: memPut m a b

/-- The canonical form from a least address on. -/
def memFrom : Nat → Memory → Bool
  | _, [] => true
  | lo, (k, v) :: m => lo ≤ k && v != 0 && memFrom (k + 1) m

/-- The canonical form of a memory: addresses strictly rising, and no byte listed that an unlisted address reads as. -/
def Memory.wf (m : Memory) : Bool := memFrom 0 m

/-- The little-endian word at a word address (00_scope.md, "Conventions"). -/
def memWord (m : Memory) (w : Nat) : Word :=
  memByte m (4 * w + 3) ++ memByte m (4 * w + 2) ++ memByte m (4 * w + 1) ++ memByte m (4 * w)

/-- Stores one byte of a word write when its enable is set (R173, R175). -/
def memPutEnabled (m : Memory) (w : Nat) (data : Word) (be : ByteEnables) (i : Nat) : Memory :=
  if be.getLsbD i then memPut m (4 * w + i) (data.extractLsb' (8 * i) 8) else m

/-- A word write with byte enables: each enabled byte takes the written byte (R173, R175). -/
def memWrite (m : Memory) (w : Nat) (data : Word) (be : ByteEnables) : Memory :=
  memPutEnabled (memPutEnabled (memPutEnabled (memPutEnabled m w data be 0) w data be 1) w data be 2) w data be 3

/-- All four byte enables: a full-word write (00_scope.md, "Conventions"). -/
def fullWord : ByteEnables := 0xF#4

/-! ### One entry of a table -/

/-- Replaces entry `i` by its image under `f`. -/
def modAt {α : Type} {n : Nat} (v : Vector α n) (i : Fin n) (f : α → α) : Vector α n :=
  v.set i.val (f (v.get i)) i.isLt

/-- Replaces entry `i`. -/
def putAt {α : Type} {n : Nat} (v : Vector α n) (i : Fin n) (x : α) : Vector α n :=
  v.set i.val x i.isLt

/-- Updates a line shadow. -/
def modShadow (l : LineNo) (f : LineShadow → LineShadow) (s : State) : State :=
  { s with lmon := { s.lmon with shadows := modAt s.lmon.shadows l f } }

/-- Updates the call record in use with a reference. -/
def modCall (r : CallRef) (f : CallRecord → CallRecord) (s : State) : State :=
  { s with deng := { s.deng with calls := s.deng.calls.map fun c => if c.ref = r then f c else c } }

/-- Updates a hunt group. -/
def modGroup (g : GroupNo) (f : HuntGroup → HuntGroup) (s : State) : State :=
  { s with deng := { s.deng with groups := modAt s.deng.groups g f } }

/-- Updates a member position. -/
def modMember (g : GroupNo) (i : MemberPos) (f : Member → Member) (s : State) : State :=
  modGroup g (fun h => { h with members := modAt h.members i f }) s

/-- Sets a park slot. -/
def putPark (n : ParkNo) (k : Option Park) (s : State) : State :=
  { s with deng := { s.deng with parks := putAt s.deng.parks n k } }

/-- Sets a page record. -/
def putPage (p : PageNo) (r : Option PageRec) (s : State) : State :=
  { s with pctl := { s.pctl with pages := putAt s.pctl.pages p r } }

/-- Updates a page record in use. -/
def modPage (p : PageNo) (f : PageRec → PageRec) (s : State) : State :=
  { s with pctl := { s.pctl with pages := modAt s.pctl.pages p (Option.map f) } }

/-- Sets a holder-table entry. -/
def putHolder (z : ZoneNo) (h : Option Holder) (s : State) : State :=
  { s with pctl := { s.pctl with holders := putAt s.pctl.holders z h } }

/-- Updates a player context. -/
def modContext (p : PageNo) (f : Context → Context) (s : State) : State :=
  { s with ctp := { s.ctp with contexts := modAt s.ctp.contexts p f } }

/-- Sets a page's outstanding fetch. -/
def putFetch (p : PageNo) (f : Option Fetch) (s : State) : State :=
  { s with ctp := { s.ctp with fetches := putAt s.ctp.fetches p f } }

/-- Sets a zone's overrun mark. -/
def putOverrun (z : ZoneNo) (b : Bool) (s : State) : State :=
  { s with ctp := { s.ctp with overrun := putAt s.ctp.overrun z b } }

/-- Updates a zone's measurement context. -/
def modAmon (z : ZoneNo) (f : AmonZone → AmonZone) (s : State) : State :=
  { s with amon := modAt s.amon z f }

/-- Updates a zone's output stage. -/
def modZos (z : ZoneNo) (f : ZosZone → ZosZone) (s : State) : State :=
  { s with zos := { s.zos with zones := modAt s.zos.zones z f } }

/-- Updates a request slot. -/
def modSlot (n : SlotNo) (f : SlotRec → SlotRec) (s : State) : State :=
  { s with rqu := { s.rqu with slots := modAt s.rqu.slots n f } }

/-! ### Timers -/

/-- Whether a timer runs and its time has come. Log entry 6.
(DESIGN CHOICE, safe: log entry 5) -/
def expired (t : Option Nat) (s : State) : Bool :=
  match t with
  | some e => e ≤ s.ptu.clock
  | none => false

/-- The expiry of a timer started now with a number of ms.
(DESIGN CHOICE, unsafe: log entry 6) -/
def after (ms : Nat) (s : State) : Nat := s.ptu.clock + ms

/-! ### Notices (R165, R168) -/

/-- The number of outstanding records (R166). -/
def outstanding (n : Ntu) : Nat := (n.producer - n.consumer).toNat

/-- The NTU is saturated while its queue holds 32 notices or the ring holds 255 records (R165). -/
def saturated (n : Ntu) : Bool :=
  Config.noticeQueue ≤ n.queue.length || Config.ringLimit ≤ outstanding n

/-- Hands a notice to the NTU: appended with the plant time, or dropped and counted while the NTU is saturated (R165).
No notice is raised before READY (R171). -/
def raiseNotice (n : Notice) (s : State) : State :=
  if s.ptu.mode = .ready then
    if saturated s.ntu then
      { s with ntu := { s.ntu with drops := if s.ntu.drops < 65535 then s.ntu.drops + 1 else s.ntu.drops } }
    else
      { s with ntu := { s.ntu with queue := s.ntu.queue ++ [⟨n, s.ptu.plantTime⟩] } }
  else s

/-- Raises notices in order. -/
def raiseAll (ns : List Notice) (s : State) : State := ns.foldl (fun s n => raiseNotice n s) s

/-! ### CONFIG_FAULTs, raised or noted -/

/-- The fields of a zone record that ZOS owns (R132). -/
def zosField : FaultField → Bool
  | .gmax | .gb | .gdef | .slope | .ramp => true
  | _ => false

/-- The place of a noted fault in the order of R184: the scan regions, the zone faults zone by zone with AMON's before
ZOS's, the group faults group by group with the header's before the members'; the members of a group by position.
(DESIGN CHOICE, unsafe: log entry 40) -/
def faultRank (f : ConfigFault) : Nat :=
  match f.region with
  | .control => 0
  | .zone => 100 + 2 * f.index + (if zosField f.field then 1 else 0)
  | .tonePattern => 1000 + f.index
  | .clipDirectory => 2000 + f.index
  | .groupHeader => 3000 + 33 * f.index
  | .member => 3000 + 33 * (f.index / 32) + 1 + f.index % 32
  | .lineState => 10000
  | .lineConfig => 10000

/-- Inserts a fault behind those of its rank, whatever its field or step: the faults of one pattern, as of one zone's AMON or ZOS, one
header, one member position or the control region, stand in the order in which they were noted.
(DESIGN CHOICE, unsafe: log entry 40) -/
def insertFault (f : NotedFault) : List NotedFault → List NotedFault
  | [] => [f]
  | g :: gs => if faultRank f.fault < faultRank g.fault then f :: g :: gs else g :: insertFault f gs

/-- Adds a fault to the notes of the scan. -/
def addNote (f : NotedFault) (s : State) : State :=
  { s with ntu := { s.ntu with noted := insertFault f s.ntu.noted } }

/-- Notes a fault during SCANNING, once (R171, R184). Log entry 16.
(DEDUCED, unsafe: log entry 16) -/
def noteFault (f : NotedFault) (s : State) : State := if f ∈ s.ntu.noted then s else addNote f s

/-- A block's CONFIG_FAULT about step `step` of its record: raised in service, noted during SCANNING (R164, R171). -/
def stepFault (region : FaultRegion) (index step : Nat) (s : State) (field : FaultField) : State :=
  match s.ptu.mode with
  | .scanning => noteFault ⟨⟨region, field, index⟩, step⟩ s
  | _ => raiseNotice (.configFault ⟨region, field, index⟩) s

/-- A block's CONFIG_FAULT (R164, R171). -/
def configFault (region : FaultRegion) (index : Nat) (s : State) (field : FaultField) : State :=
  stepFault region index 0 s field

/-- The CONFIG_FAULTs of one decode, in order. -/
def configFaults (region : FaultRegion) (index : Nat) (fields : List FaultField) (s : State) : State :=
  fields.foldl (configFault region index) s

end Sys2Proof.Machine
end

