-- ==== Sys2Proof/Machine/Operands.lean ====
section
/-! DEFINITION. The words of the Service Area: which word lies where (11.1), the fields of each record and what an
out-of-range value acts as, the numeric codes, and the words of a notice record (11_record_layouts.md). -/

namespace Sys2Proof.Machine

/-! ### Bit fields -/

/-- Bits `lo + len - 1 : lo` of a word as a number. -/
def bits (w : Word) (lo len : Nat) : Nat := (w.toNat >>> lo) % 2 ^ len

/-- Bit `i` of a word. -/
def bit (w : Word) (i : Nat) : Bool := w.getLsbD i

/-- A flag as a field of one bit. -/
def flag (b : Bool) : Nat := if b then 1 else 0

/-- The word with the given (value, lowest bit) fields. -/
def packed (fields : List (Nat × Nat)) : Word :=
  BitVec.ofNat 32 ((fields.map fun f => f.1 * 2 ^ f.2).sum)

/-! ### The watched words (11.1) -/

/-- The SA offset of a watched word (11.1 to 11.4). -/
def saOffset : Watched → Nat
  | .consumer => 0x0005
  | .interruptWord => 0x0006
  | .linkEnables => 0x0008
  | .control => 0x0009
  | .param n i => 0x0040 + 8 * n.val + i.val
  | .cmd n => 0x0040 + 8 * n.val + 4
  | .header g i => 0x0100 + 8 * g.val + i.val
  | .member g i => 0x0400 + 32 * g.val + i.val
  | .permission p i => 0x0C00 + 2 * p.val + i.val
  | .zone z i => 0x0D00 + 8 * z.val + i.val
  | .target t => 0x0E00 + t.val
  | .toneStep t i => 0x0E40 + 8 * t.val + i.val
  | .toneRepeat t => 0x0EC0 + t.val
  | .clip c i => 0x0F00 + 2 * c.val + i.val
  | .lineState l => 0x1000 + 4 * l.val
  | .lineConfig l => 0x1000 + 4 * l.val + 1
  | .live k i => 0x2000 + 128 * k.val + i.val

/-- Whether a word named so is in the map at all: pattern 0 has no words (11.1). -/
def inMap : Watched → Bool
  | .toneStep t _ => t != 0
  | .toneRepeat t => t != 0
  | _ => true

/-- The watched word at an SA offset, if the map has one there (11.1). -/
def watchedAt (o : Nat) : Option Watched :=
  if o = 0x0005 then some .consumer
  else if o = 0x0006 then some .interruptWord
  else if o = 0x0008 then some .linkEnables
  else if o = 0x0009 then some .control
  else if 0x0040 ≤ o ∧ o < 0x00C0 then
    let n := Fin.ofNat 16 ((o - 0x0040) / 8)
    let i := (o - 0x0040) % 8
    if i < 4 then some (.param n (Fin.ofNat 4 i)) else if i = 4 then some (.cmd n) else none
  else if 0x0100 ≤ o ∧ o < 0x0300 then
    some (.header (Fin.ofNat 64 ((o - 0x0100) / 8)) (Fin.ofNat 8 ((o - 0x0100) % 8)))
  else if 0x0400 ≤ o ∧ o < 0x0C00 then
    some (.member (Fin.ofNat 64 ((o - 0x0400) / 32)) (Fin.ofNat 32 ((o - 0x0400) % 32)))
  else if 0x0C00 ≤ o ∧ o < 0x0C80 then
    some (.permission (Fin.ofNat 64 ((o - 0x0C00) / 2)) (Fin.ofNat 2 ((o - 0x0C00) % 2)))
  else if 0x0D00 ≤ o ∧ o < 0x0DC0 then
    some (.zone (Fin.ofNat 24 ((o - 0x0D00) / 8)) (Fin.ofNat 8 ((o - 0x0D00) % 8)))
  else if 0x0E00 ≤ o ∧ o < 0x0E20 then some (.target (Fin.ofNat 32 (o - 0x0E00)))
  else if 0x0E48 ≤ o ∧ o < 0x0EC0 then
    some (.toneStep (Fin.ofNat 16 ((o - 0x0E40) / 8)) (Fin.ofNat 8 ((o - 0x0E40) % 8)))
  else if 0x0EC1 ≤ o ∧ o < 0x0ED0 then some (.toneRepeat (Fin.ofNat 16 (o - 0x0EC0)))
  else if 0x0F00 ≤ o ∧ o < 0x0F80 then
    some (.clip (Fin.ofNat 64 ((o - 0x0F00) / 2)) (Fin.ofNat 2 ((o - 0x0F00) % 2)))
  else if 0x1000 ≤ o ∧ o < 0x2000 then
    let l := Fin.ofNat 1024 ((o - 0x1000) / 4)
    let i := (o - 0x1000) % 4
    if i = 0 then some (.lineState l) else if i = 1 then some (.lineConfig l) else none
  else if 0x2000 ≤ o ∧ o < 0x2200 then
    some (.live (Fin.ofNat 4 ((o - 0x2000) / 128)) (Fin.ofNat 128 ((o - 0x2000) % 128)))
  else none

/-- An answered word of the Service Area, named by what it shows (11.1). -/
inductive Answered where
  | partStatus
  | plantTime
  | occupancy
  | producer
  | slotStatus (n : SlotNo)
  | slotResult0 (n : SlotNo)
  | slotResult1 (n : SlotNo)
  | groupStatus (g : GroupNo)
  | signIn (g : GroupNo)
  | parkStatus (n : ParkNo)
  | zoneStatus (z : ZoneNo)
  | pageStatus (p : PageNo)
  deriving DecidableEq, Repr

/-- The answered word at an SA offset, if the map has one there (11.1). -/
def answeredAt (o : Nat) : Option Answered :=
  if o = 0x0000 then some .partStatus
  else if o = 0x0001 then some .plantTime
  else if o = 0x0002 then some .occupancy
  else if o = 0x0004 then some .producer
  else if 0x0040 ≤ o ∧ o < 0x00C0 then
    let n := Fin.ofNat 16 ((o - 0x0040) / 8)
    let i := (o - 0x0040) % 8
    if i = 5 then some (.slotStatus n) else if i = 6 then some (.slotResult0 n)
    else if i = 7 then some (.slotResult1 n) else none
  else if 0x0300 ≤ o ∧ o < 0x0340 then some (.groupStatus (Fin.ofNat 64 (o - 0x0300)))
  else if 0x0340 ≤ o ∧ o < 0x0380 then some (.signIn (Fin.ofNat 64 (o - 0x0340)))
  else if 0x0C80 ≤ o ∧ o < 0x0C90 then some (.parkStatus (Fin.ofNat 16 (o - 0x0C80)))
  else if 0x0DC0 ≤ o ∧ o < 0x0DD8 then some (.zoneStatus (Fin.ofNat 24 (o - 0x0DC0)))
  else if 0x0E20 ≤ o ∧ o < 0x0E30 then some (.pageStatus (Fin.ofNat 16 (o - 0x0E20)))
  else none

/-! ### The start-up scan's bursts (R182) -/

/-- A burst of the scan, by what it reads. -/
inductive ScanBurst where
  | control
  | slot (n : SlotNo)
  | zone (z : ZoneNo)
  | targets (j : Fin 4)
  | tones (t : PatternNo)
  | toneRepeats (j : Fin 2)
  | clips (j : Fin 16)
  | header (g : GroupNo)
  | members (g : GroupNo) (j : Fin 4)
  | permissions (j : Fin 16)
  | lines (j : Fin 256)
  deriving DecidableEq, Repr

/-- The k-th burst of the scan, counting from 0 (R182). -/
def scanBurstAt (k : Nat) : Option ScanBurst :=
  if k = 0 then some .control
  else if k < 17 then some (.slot (Fin.ofNat 16 (k - 1)))
  else if k < 41 then some (.zone (Fin.ofNat 24 (k - 17)))
  else if k < 45 then some (.targets (Fin.ofNat 4 (k - 41)))
  else if k < 60 then some (.tones (Fin.ofNat 16 (k - 44)))
  else if k < 62 then some (.toneRepeats (Fin.ofNat 2 (k - 60)))
  else if k < 78 then some (.clips (Fin.ofNat 16 (k - 62)))
  else if k < 142 then some (.header (Fin.ofNat 64 (k - 78)))
  else if k < 398 then some (.members (Fin.ofNat 64 ((k - 142) / 4)) (Fin.ofNat 4 ((k - 142) % 4)))
  else if k < 414 then some (.permissions (Fin.ofNat 16 (k - 398)))
  else if k < 670 then some (.lines (Fin.ofNat 256 (k - 414)))
  else none

/-- The number of the burst that reads a watched word; the live buffers are not read (R182). The 15 repeat words are split
8 and 7 over their two bursts.
(DESIGN CHOICE, unsafe: log entry 34) -/
def burstOf : Watched → Option Nat
  | .consumer | .interruptWord | .linkEnables | .control => some 0
  | .param n _ | .cmd n => some (1 + n.val)
  | .zone z _ => some (17 + z.val)
  | .target t => some (41 + t.val / 8)
  | .toneStep t _ => some (44 + t.val)
  | .toneRepeat t => some (60 + (t.val - 1) / 8)
  | .clip c _ => some (62 + c.val / 4)
  | .header g _ => some (78 + g.val)
  | .member g i => some (142 + 4 * g.val + i.val / 8)
  | .permission p _ => some (398 + p.val / 4)
  | .lineState l | .lineConfig l => some (414 + l.val / 4)
  | .live _ _ => none

/-- The watched words a burst reads, ascending (R182). The 15 repeat words are split 8 and 7 over their two bursts.
(DESIGN CHOICE, unsafe: log entry 34) -/
def burstWords : ScanBurst → List Watched
  | .control => [.consumer, .interruptWord, .linkEnables, .control]
  | .slot n => (List.finRange 4).map (.param n) ++ [.cmd n]
  | .zone z => (List.finRange 8).map (.zone z)
  | .targets j => (List.finRange 8).map fun i => .target (Fin.ofNat 32 (8 * j.val + i.val))
  | .tones t => (List.finRange 8).map (.toneStep t)
  | .toneRepeats j =>
    (if j.val = 0 then [1, 2, 3, 4, 5, 6, 7, 8] else [9, 10, 11, 12, 13, 14, 15]).map fun t =>
      .toneRepeat (Fin.ofNat 16 t)
  | .clips j => (List.finRange 8).map fun i => .clip (Fin.ofNat 64 (4 * j.val + i.val / 2)) (Fin.ofNat 2 i.val)
  | .header g => (List.finRange 8).map (.header g)
  | .members g j => (List.finRange 8).map fun i => .member g (Fin.ofNat 32 (8 * j.val + i.val))
  | .permissions j =>
    (List.finRange 8).map fun i => .permission (Fin.ofNat 64 (4 * j.val + i.val / 2)) (Fin.ofNat 2 i.val)
  | .lines j =>
    (List.finRange 4).flatMap fun i =>
      [.lineState (Fin.ofNat 1024 (4 * j.val + i.val)), .lineConfig (Fin.ofNat 1024 (4 * j.val + i.val))]

/-- The copy of a watched word (R175). -/
def copyOf (w : Watched) (s : State) : Word := memWord s.ptu.copies (saOffset w)

/-- The array word address of an SA offset (R174). -/
def saAddress (base : BitVec 4) (offset : Nat) : Address := BitVec.ofNat 22 (base.toNat * 0x40000 + offset)

/-- The array word at an address. -/
def arrayWord (a : Address) (s : State) : Word := memWord s.ptu.array a.toNat

/-- A write to the array (R173). -/
def arrayWrite (a : Address) (data : Word) (be : ByteEnables) (s : State) : State :=
  { s with ptu := { s.ptu with array := memWrite s.ptu.array a.toNat data be } }

/-- Merges a write into the copy of a watched word (R175). -/
def mergeCopy (w : Watched) (data : Word) (be : ByteEnables) (s : State) : State :=
  { s with ptu := { s.ptu with copies := memWrite s.ptu.copies (saOffset w) data be } }

/-! ### Line words (R2, R3) -/

/-- The decoded pair of a state word, and the fault its decode calls for (R2). -/
def decodeLineState (w : Word) : LineState × List FaultField :=
  let ref : CallRef := BitVec.ofNat 16 (bits w 16 16)
  match bits w 0 8 with
  | 0 => (.idle, [])
  | 1 => (.busy, [])
  | 2 => if ref = 0 then (.busy, [.reference]) else (.ringing ref, [])
  | 3 => if ref = 0 then (.busy, [.reference]) else (.talking ref, [])
  | 4 => (.outOfService, [])
  | _ => (.busy, [.code])

/-- The pickup group of a config word: above 63 acts as 63 (R3). -/
def decodePickup (w : Word) : PickupNo × List FaultField :=
  if bits w 0 8 ≤ 63 then (Fin.ofNat 64 (bits w 0 8), []) else (63, [.pickupGroup])

/-- A shadow with the fields of a config word (R3). -/
def withLineConfig (w : Word) (x : LineShadow) : LineShadow :=
  { x with pickup := (decodePickup w).1, directedAny := bit w 8, noPickupFrom := bit w 9 }

/-! ### Group headers and member words (R21, R23) -/

/-- The mode of a code (11.3). -/
def modeOf : Nat → GroupMode
  | 0 => .linear
  | 1 => .circular
  | 2 => .longestIdle
  | _ => .allRing

/-- The priority of a code (00_scope.md, "Priorities"). -/
def priorityOf : Nat → PagePriority
  | 0 => .background
  | 1 => .normal
  | 2 => .urgent
  | _ => .emergency

/-- The number of a page priority; a larger number is a higher priority. -/
def priorityRank : PagePriority → Nat
  | .background => 0
  | .normal => 1
  | .urgent => 2
  | .emergency => 3

/-- The ring time that acts: 0, or 5..120 (R21). -/
def actingRingTime (n : Nat) : Nat := if n = 0 then 0 else max 5 (min n 120)

/-- A fault field when a condition holds. -/
def faultIf (c : Bool) (f : FaultField) : List FaultField := if c then [f] else []

/-- The header's fields as they act (R21), from words 0 to 3. -/
def decodeHeader (w0 w1 w2 w3 : Word) : GroupConfig :=
  { mode := modeOf (bits w0 0 2)
    capacity := min (bits w0 8 5) 16
    ringTime := actingRingTime (bits w1 0 8)
    overflowTarget := if bit w2 7 then some (Fin.ofNat 64 (bits w2 0 6)) else none
    overflowWait := min (bits w1 16 10) 600
    floorTarget := if bit w2 15 then some (Fin.ofNat 32 (bits w2 8 5)) else none
    floorDelay := bits w2 16 8
    floorPriority := priorityOf (min (bits w2 24 2) 2)
    ringPattern := Fin.ofNat 16 (bits w2 28 4)
    alarm := min (bits w0 16 5) 16
    autoSignOut := min (bits w0 24 4) 7
    linkedPickup := Fin.ofNat 64 (bits w3 0 6)
    initialNight := bit w0 4 }

/-- The faults a header's decode calls for, in the order of R21's table.
(DESIGN CHOICE, unsafe: log entry 35) -/
def headerFaults (w0 w1 w2 : Word) : List FaultField :=
  faultIf (16 < bits w0 8 5) .capacity
    ++ faultIf (actingRingTime (bits w1 0 8) ≠ bits w1 0 8) .ringTime
    ++ faultIf (600 < bits w1 16 10) .overflowWait
    ++ faultIf (bits w2 24 2 = 3) .floorPriority
    ++ faultIf (16 < bits w0 16 5) .threshold
    ++ faultIf (7 < bits w0 24 4) .autoSignOut

/-- A member position with the fields of its member word; its sign-in state and count stay (R23, R24). -/
def withMemberWord (w : Word) (m : Member) : Member :=
  { m with line := Fin.ofNat 1024 (min (bits w 0 16) 1023), valid := bit w 16, initialSignIn := bit w 17 }

/-- The fault of a member word by itself (R23). -/
def memberFaults (w : Word) : List FaultField := faultIf (1023 < bits w 0 16) .line

/-! ### The control word (R29, R61) -/

/-- The confirm window in ms (R29). -/
def confirmWindowOf (w : Word) : Nat :=
  if bits w 0 8 = 0 then 2000 else 100 * max 5 (min (bits w 0 8) 50)

/-- The park time in s (R61). -/
def parkTimeOf (w : Word) : Nat := max 10 (min (bits w 16 10) 600)

/-- The faults of the control word (R29, R61), the confirm window's first.
(DESIGN CHOICE, unsafe: log entry 34) -/
def controlFaults (w : Word) : List FaultField :=
  faultIf (bits w 0 8 ≠ 0 && (bits w 0 8 < 5 || 50 < bits w 0 8)) .confirmWindow
    ++ faultIf (bits w 16 10 < 10 || 600 < bits w 16 10) .parkTime

/-! ### Zone records (R121, R132) -/

/-- AMON's fields as they act (R121), from words 0, 2 and 3. -/
def decodeAmon (w0 w2 w3 : Word) : AmonFields :=
  { mic := bit w0 1
    adapt := bits w0 4 4
    rise := max 1 (bits w3 0 8)
    fall := max 1 (bits w3 8 8)
    quiet := min (bits w2 0 8) 120
    high := min (bits w2 8 8) 120
    low := min (bits w2 16 8) 120
    silLevel := min (bits w2 24 8) 120
    silTime := bits w3 16 8
    resume := min (bits w3 24 8) 200 }

/-- The faults of AMON's decode, in the order of R121's table, with WINDOW last.
(DESIGN CHOICE, unsafe: log entry 35) -/
def amonFaults (w2 w3 : Word) : List FaultField :=
  faultIf (bits w3 0 8 = 0) .rise ++ faultIf (bits w3 8 8 = 0) .fall
    ++ faultIf (120 < bits w2 0 8) .q ++ faultIf (120 < bits w2 8 8) .high
    ++ faultIf (120 < bits w2 16 8) .low ++ faultIf (120 < bits w2 24 8) .silLevel
    ++ faultIf (200 < bits w3 24 8) .resume
    ++ faultIf (min (bits w2 8 8) 120 ≤ min (bits w2 16 8) 120) .window

/-- ZOS's gain fields as they act (R132), from words 0 and 1. -/
def decodeGain (w0 w1 : Word) : GainFields :=
  let gmax := min (bits w1 0 7) 96
  { gmax := gmax
    gb := min (bits w1 8 7) gmax
    gdef := min (bits w1 16 7) gmax
    slope := min (bits w0 16 5) 16
    ramp := max 1 (min (bits w0 8 5) 16) }

/-- The faults of ZOS's decode, in the order of R132's table.
(DESIGN CHOICE, unsafe: log entry 35) -/
def gainFaults (w0 w1 : Word) : List FaultField :=
  let gmax := min (bits w1 0 7) 96
  faultIf (96 < bits w1 0 7) .gmax ++ faultIf (gmax < bits w1 8 7) .gb ++ faultIf (gmax < bits w1 16 7) .gdef
    ++ faultIf (16 < bits w0 16 5) .slope ++ faultIf (bits w0 8 5 = 0 || 16 < bits w0 8 5) .ramp

/-! ### Tone patterns and clips (R101, R107) -/

/-- A tone step as it acts (R107). -/
def decodeToneStep (w : Word) : ToneStep :=
  { frequency := if bits w 0 12 = 0 then 0 else max 100 (min (bits w 0 12) 3000)
    level := min (bits w 16 7) 96
    duration := bits w 24 8 }

/-- The faults of one tone step (R107). -/
def toneStepFaults (w : Word) : List FaultField :=
  faultIf (bits w 0 12 ≠ 0 && (bits w 0 12 < 100 || 3000 < bits w 0 12)) .frequency
    ++ faultIf (96 < bits w 16 7) .level

/-- A clip directory entry as it acts (R101). -/
def decodeClip (w0 w1 : Word) : ClipEntry :=
  { addr := BitVec.ofNat 22 (bits w0 0 22 / 32 * 32), blocks := bits w1 0 16, repeats := bits w1 16 4,
    gap := bits w1 24 8 }

/-- The fault of a clip directory entry (R101). -/
def clipFaults (w0 : Word) : List FaultField := faultIf (bits w0 0 5 ≠ 0) .address

/-! ### Codes (11.4, 11.6) -/

/-- The value of a result code (11.4). -/
def resultValue : ResultCode → Nat
  | .ok => 0 | .badParam => 1 | .noCall => 2 | .callExists => 3 | .tableFull => 4 | .groupBusy => 5
  | .deflected => 6 | .nothing => 7 | .notPermitted => 8 | .notMember => 9 | .parkBusy => 10 | .parkEmpty => 11
  | .sourceBusy => 12 | .noPageSlot => 13 | .noZones => 14 | .unknownCommand => 15

/-- The value of a page state (11.4). -/
def pageStateValue : PageState → Nat
  | .pending => 1 | .preamble => 2 | .active => 3 | .releasing => 4

/-- The value of a PAGE_STATE notice's state (11.4). -/
def pageNoticeValue : PageNoticeState → Nat
  | .pending => 1 | .preamble => 2 | .active => 3 | .releasing => 4 | .ended => 5

/-- The value of an end cause, none 0 (11.6). -/
def endCauseValue : Option EndCause → Nat
  | none => 0 | some .request => 1 | some .sourceDone => 2 | some .sourceFault => 3 | some .maxDuration => 4
  | some .linked => 5 | some .waitLimit => 6

/-- The kind of an origin (11.5). -/
def originKind : PageOrigin → Nat
  | .request => 1 | .group _ => 2 | .park _ => 3

/-- The group or slot number of an origin (11.5). -/
def originNumber : PageOrigin → Nat
  | .request => 0 | .group g => g.val | .park n => n.val

/-- The kind of a source (11.5). -/
def sourceKind : PageSource → Nat
  | .live _ => 1 | .clip _ => 2 | .tone _ => 3

/-- The number of a source (11.5). -/
def sourceNumber : PageSource → Nat
  | .live k => k.val | .clip c => c.val | .tone t => t.val

/-- The window code W (11.5). -/
def windowValue : WindowState → Nat
  | .normal => 0 | .loud => 1 | .micSilent => 2

/-- The value of a fault region (11.6). -/
def regionValue : FaultRegion → Nat
  | .lineState => 1 | .lineConfig => 2 | .groupHeader => 3 | .member => 4 | .control => 5 | .zone => 6
  | .clipDirectory => 7 | .tonePattern => 8

/-- The value of a fault field (11.6). -/
def fieldValue : FaultField → Nat
  | .code => 1 | .reference => 2 | .pickupGroup => 3 | .capacity => 4 | .ringTime => 5 | .overflowWait => 6
  | .floorPriority => 7 | .threshold => 8 | .autoSignOut => 9 | .duplicate => 10 | .confirmWindow => 11
  | .parkTime => 12 | .consumer => 13 | .rise => 14 | .fall => 15 | .q => 16 | .high => 17 | .low => 18
  | .line => 19 | .silLevel => 21 | .resume => 22 | .window => 23 | .gmax => 24 | .gb => 25 | .gdef => 26
  | .slope => 27 | .ramp => 28 | .address => 29 | .frequency => 30 | .level => 31

/-- The value of a WITHDRAW reason (11.6). -/
def withdrawValue : WithdrawReason → Nat
  | .noAnswer => 1 | .answeredElsewhere => 2 | .abandoned => 3 | .cancelled => 4 | .overflow => 5
  | .deflected => 6 | .picked => 7

/-- The value of a deflection reason (11.4, 11.6). -/
def deflectValue : DeflectReason → Nat
  | .hops => 1 | .noTarget => 2

/-- The value of a ZONE_LOST reason (11.6). -/
def zoneLostValue : ZoneLostReason → Nat
  | .preempted => 1 | .disabled => 2 | .loud => 3 | .target => 4

/-- The value of an AUDIO_FAULT reason (11.6). -/
def audioFaultValue : AudioFaultReason → Nat
  | .clipFormat => 1 | .noFinal => 2 | .underrun => 3 | .liveOverrun => 4

/-! ### Notice records (R163, R164, 11.6) -/

/-- Word 0 of a record: the kind and subjects A, B and C. -/
def noticeHead (kind a b c : Nat) : Word := packed [(kind, 0), (a, 8), (b, 16), (c, 24)]

/-- A line that may be absent, at a bit position: its number, and its absence flag 15 bits above. -/
def absentLine (l : Option LineNo) (lo : Nat) : List (Nat × Nat) :=
  match l with
  | some l => [(l.val, lo)]
  | none => [(1, lo + 15)]

/-- Words 0 to 2 of a notice's record (11.6); every field the kind does not carry is 0 (R163). -/
def noticeWords : Notice → Word × Word × Word
  | .offer g r l => (noticeHead 1 g.val 0 0, packed [(r.toNat, 0)], packed [(l.val, 0)])
  | .offerLapsed g w r l =>
    (noticeHead 2 g.val (match w with | .line => 1 | .window => 2) 0, packed [(r.toNat, 0)], packed [(l.val, 0)])
  | .withdraw w r l => (noticeHead 3 (withdrawValue w) 0 0, packed [(r.toNat, 0)], packed [(l.val, 0)])
  | .answered g r l =>
    (noticeHead 4 (match g with | some g => g.val | none => 0xFF) 0 0, packed [(r.toNat, 0)], packed [(l.val, 0)])
  | .queued g n r => (noticeHead 5 g.val n 0, packed [(r.toNat, 0)], 0)
  | .overflow g h n r => (noticeHead 6 g.val h.val n, packed [(r.toNat, 0)], 0)
  | .deflect g n w r => (noticeHead 7 g.val n (deflectValue w), packed [(r.toNat, 0)], 0)
  | .abandonedCall g r l => (noticeHead 8 g.val 0 0, packed [(r.toNat, 0)], packed [(l.val, 0)])
  | .abandonedPark n r l => (noticeHead 8 n.val 1 0, packed [(r.toNat, 0)], packed [(l.val, 0)])
  | .memberOut g i l => (noticeHead 9 g.val i.val 0, packed [(l.val, 0)], 0)
  | .parkRecall n r p h =>
    (noticeHead 10 n.val 0 0, packed [(r.toNat, 0)], packed (absentLine p 0 ++ absentLine h 16))
  | .pageState p v c o pr =>
    (noticeHead 11 p.val (pageNoticeValue v) (endCauseValue c), packed [(originKind o, 16), (originNumber o, 0)],
      packed [(priorityRank pr, 0)])
  | .zoneLost p z w t =>
    (noticeHead 12 p.val z.val (zoneLostValue w), 0, packed [((match t with | some t => t.val | none => 0), 0)])
  | .noiseState z o n nl lc =>
    (noticeHead 13 z.val (windowValue o) (windowValue n), 0,
      match lc with
      | some lc => packed [(nl, 0), (lc, 16)]
      | none => packed [(nl, 0), (1, 8)])
  | .audioFault p w src d => (noticeHead 14 p.val (audioFaultValue w) 0, packed [(src, 0)], packed [(d, 0)])
  | .configFault f => (noticeHead 15 (regionValue f.region) (fieldValue f.field) 0, packed [(f.index, 0)], 0)
  | .reqRefused n f =>
    (noticeHead 16 n.val (if f.partialWrite then 2 else 1) 0, packed [(f.code.toNat, 0), (f.tag.toNat, 8)], 0)
  | .trackFull w r l =>
    (noticeHead 17 (match w with | .set => 1 | .table => 2) 0 0, packed [(r.toNat, 0)], packed [(l.val, 0)])
  | .ringOverrun n => (noticeHead 18 0 0 0, packed [(n, 0)], 0)
  | .ready restart n =>
    (noticeHead 19 (if restart then 2 else 1) 0 0, packed [(n.toNat, 0)],
      packed [(Config.identity, 0), (Config.revision, 16)])

/-- The four words of a queued notice's record; word 3 is its stamp (R163). -/
def recordWords (q : Queued) : List Word :=
  [(noticeWords q.notice).1, (noticeWords q.notice).2.1, (noticeWords q.notice).2.2, q.stamp]

end Sys2Proof.Machine
end

