-- ==== Sys2Proof/Machine/Flags.lean ====
section
/-! DEFINITION. The conditions and status outputs of the notice unit and the array arbiter: RING_OVERRUN, the interrupt
output, when a posting is due, the urgent mark and the hold condition (R166 to R170, R179, R180). -/

namespace Sys2Proof.Machine

/-- When the NTU is no longer saturated and its drop count is above 0, RING_OVERRUN is appended with the count and the
count returns to 0 (R168). -/
def endSaturation (s : State) : State :=
  if s.ntu.drops ≠ 0 && !saturated s.ntu && s.ptu.mode = .ready then
    { s with ntu := { s.ntu with queue := s.ntu.queue ++ [⟨.ringOverrun s.ntu.drops, s.ptu.plantTime⟩], drops := 0 } }
  else s

/-- The age of the oldest outstanding record, the one at the consumer index (R169). -/
def oldestAge (s : State) : Nat := (s.ptu.plantTime - s.ntu.postedAt.get s.ntu.consumer.toFin).toNat

/-- The two interrupt conditions (R170). -/
def interruptCondition (s : State) : Bool :=
  s.ntu.threshold ≤ outstanding s.ntu
    || (s.ntu.holdoff ≠ 0 && 0 < outstanding s.ntu && s.ntu.holdoff ≤ oldestAge s)

/-- Evaluates the interrupt (R170); it stays deasserted until READY (R171). -/
def evalInterrupt (s : State) : State :=
  { s with ntu := { s.ntu with interrupt := s.ptu.mode = .ready && interruptCondition s } }

/-- The NTU has a posting to make: READY, a queued notice, and room in the ring (R166).
(DEDUCED, safe: log entry 20) -/
def postingDue (s : State) : Bool :=
  s.ptu.mode = .ready && !s.ntu.queue.isEmpty && outstanding s.ntu < Config.ringLimit

/-- The oldest queued notice has waited more than 2 ms (R180). -/
def oldNoticeWaits (s : State) : Bool :=
  match s.ntu.queue with
  | [] => false
  | q :: _ => 2 < (s.ptu.plantTime - q.stamp).toNat

/-- Samples left unproduced in a full buffer (R102). -/
def samplesLeft : Buffer → Nat
  | .full _ _ _ rest => rest.length
  | _ => 0

/-- Samples left unproduced in a page's full buffers (R102). -/
def unproduced (x : Context) : Nat :=
  match x.playing with
  | .clip c => samplesLeft c.bufA + samplesLeft c.bufB
  | _ => 0

/-- A page's outstanding fetch is marked urgent: fewer than 16 samples are left (R102). -/
def urgentFetch (p : PageNo) (s : State) : Bool :=
  (s.ctp.fetches.get p).isSome && unproduced (s.ctp.contexts.get p) < 16

/-- A page's outstanding fetch is not marked urgent. -/
def otherFetch (p : PageNo) (s : State) : Bool :=
  (s.ctp.fetches.get p).isSome && !(unproduced (s.ctp.contexts.get p) < 16)

/-- The 16 numbers after a pointer, counting upward and wrapping from 15 to 0 (R159, R179). -/
def rotationFrom (pointer : Fin 16) : List (Fin 16) :=
  (List.range 16).map fun k => Fin.ofNat 16 (pointer.val + 1 + k)

/-- The hold condition (R180). -/
def holdCondition (s : State) : Bool :=
  s.ptu.mode = .ready
    && ((List.finRange 16).any (fun p => urgentFetch p s) || (postingDue s && oldNoticeWaits s))

/-- A processor access that uses the array port starts: it sets the hold mark when a hold ran a burst before it, and
clears it otherwise (R180). -/
def accessStart (s : State) : State :=
  { s with ptu := { s.ptu with holdMark := s.ptu.heldAccess, heldAccess := false } }

/-- Whether the scan has read a watched word (R182, R183). -/
def isRead (w : Watched) (s : State) : Bool :=
  match burstOf w with
  | some k => k < s.ptu.scanned
  | none => false

/-- A processor write to a watched word: it reaches the array; in service, and during SCANNING for a word already read,
the copy is merged and the word's owner acts on it; while the reset pin is low nothing more happens
(R173, R175, R181, R183). The command names the word and not an address, so while the pin is low the address is that of the
SA_BASE kept from before the fall, 0 before the first release.
(DESIGN CHOICE, unsafe: log entry 2) -/
def watchedWrite (w : Watched) (data : Word) (be : ByteEnables) (owner : State → State) (s : State) : State :=
  let s1 := arrayWrite (saAddress s.ptu.saBase (saOffset w)) data be (accessStart s)
  match s.ptu.mode with
  | .resetLow => s1
  | .scanning => if isRead w s then owner (mergeCopy w data be s1) else s1
  | .ready => owner (mergeCopy w data be s1)

end Sys2Proof.Machine
end

