-- ==== Sys2Proof/Machine/Level.lean ====
section
/-! DEFINITION. Zone level: target gain, applied gain and ramp, output scaling, FIFOs, and what a change of a zone's
holder entry does at ZOS and AMON (07_zone_level_and_output_links.md, and R124 of 06). -/

namespace Sys2Proof.Machine

/-- The gain multiplier table F (R142). -/
def gainTable (k : Nat) : Int :=
  match k with
  | 0 => 32768 | 1 => 35734 | 2 => 38968 | 3 => 42495 | 4 => 46341 | 5 => 50535 | 6 => 55109 | _ => 60098

/-- floor(s × F[g mod 8] / 2^(27 − floor(g/8))): the scaling of R142, and of a tone sample at its level (R108). -/
def scaled (v : Int) (g : Nat) : Int := v * gainTable (g % 8) / (2 ^ (27 - g / 8) : Nat)

/-- A number as a 16-bit two's complement sample. -/
def sampleOf (v : Int) : Sample := BitVec.ofInt 16 v

/-- The noise level NL (R123). -/
def noiseLevel (a : AmonZone) : Nat := a.ne / 16

/-- x limited to the range a..b (00_scope.md, "Rounding"). -/
def clampInt (x a b : Int) : Int := max a (min x b)

/-- The base gain of a page that is not EMERGENCY: the first line of R135's table that applies. -/
def baseGain (p : PagePriority) (a : AmonZone) (g : GainFields) : Nat :=
  if a.fields.mic = false ∨ a.window = .micSilent then g.gdef
  else if p = .background then g.gb
  else g.gb + (noiseLevel a - a.fields.quiet) * g.slope / 8

/-- The target gain of a zone (R135). -/
def targetGain (h : Option Holder) (a : AmonZone) (g : GainFields) : Nat :=
  match h with
  | none => 0
  | some h =>
    if h.lettingGo then 0
    else if h.priority = .emergency then g.gmax
    else (clampInt (baseGain h.priority a g + h.trim) 0 g.gmax).toNat

/-- Whether a zone is held by an EMERGENCY page that is not letting it go (R137). -/
def emergencyHeld (h : Option Holder) : Bool :=
  match h with
  | some h => h.priority = .emergency && !h.lettingGo
  | none => false

/-- The ramp timer after a change of GT or GA: stopped when they are equal, started when it was stopped and they
differ, and otherwise left running (R138). -/
def rampTimer (gt ga : Nat) (t : Option Nat) (start : Nat) : Option Nat :=
  if ga = gt then none
  else match t with
    | some e => some e
    | none => some start

/-- Computes a zone's GT again (R136), keeps GA equal to it under an EMERGENCY holder (R137), and brings the ramp timer
up to date (R138). -/
def regain (z : ZoneNo) (s : State) : State :=
  let h := s.pctl.holders.get z
  modZos z (fun x =>
    let gt := targetGain h (s.amon.get z) x.gain
    let ga := if emergencyHeld h then gt else x.ga
    { x with gt := gt, ga := ga, rampAt := rampTimer gt ga x.rampAt (after x.gain.ramp s) }) s

/-- Empties a zone's FIFO (R145). -/
def emptyFifo (z : ZoneNo) (s : State) : State := modZos z (fun x => { x with fifo := [] }) s

/-- Puts a sample into a zone's FIFO; a sample offered to a full FIFO is dropped (R144). -/
def pushSample (v : Sample) (z : ZoneNo) (s : State) : State :=
  modZos z (fun x => { x with fifo := if x.fifo.length < Config.fifoDepth then x.fifo ++ [v] else x.fifo }) s

/-- A page priority of NORMAL or above, which freezes the zone's noise estimate (R124). -/
def freezes (p : PagePriority) : Bool := p != .background

/-- A zone is taken by a page of NORMAL or above: the freeze is in force, and the present block is touched by it
(R123, R124). -/
def freezeTaken (p : PagePriority) (z : ZoneNo) (s : State) : State :=
  if freezes p then modAmon z (fun a => { a with freeze := .held, tainted := true }) s else s

/-- A zone is freed from a page of NORMAL or above: its resume timer starts, or with RESUME 0 the freeze ends (R124). -/
def freezeFreed (p : PagePriority) (z : ZoneNo) (s : State) : State :=
  if freezes p then
    modAmon z (fun a =>
      { a with freeze := if a.fields.resume = 0 then .off else .resuming (after (10 * a.fields.resume) s) }) s
  else s

/-- A page takes a zone, free or by preemption (R79, R134, R139, R145): the entry names it, the FIFO is emptied, the
overrun mark cleared (R114), AMON's freeze and GT follow. -/
def zoneTaken (z : ZoneNo) (h : Holder) (s : State) : State :=
  regain z (freezeTaken h.priority z (putOverrun z false (emptyFifo z (putHolder z (some h) s))))

/-- A zone is freed (R83, R139, R145): the entry is free, the FIFO empty, GA and GT 0, the ramp timer stopped. -/
def zoneFreed (z : ZoneNo) (s : State) : State :=
  let s1 := modZos z (fun x => { x with fifo := [], ga := 0, gt := 0, rampAt := none })
    (putOverrun z false (putHolder z none s))
  match s.pctl.holders.get z with
  | some h => freezeFreed h.priority z s1
  | none => s1

/-- A zone's letting-go flag changes under its holder (R84); the FIFO and GA are kept (R139). -/
def zoneLetting (b : Bool) (z : ZoneNo) (s : State) : State :=
  match s.pctl.holders.get z with
  | some h => regain z (putHolder z (some { h with lettingGo := b }) s)
  | none => s

/-- Whether a zone's link is enabled in the frame in progress (R147, R148).
(DEDUCED, unsafe: log entry 21) -/
def linkOn (z : ZoneNo) (s : State) : Bool := s.zos.linkNow.getLsbD (z.val / 8)

/-- The zones a page holds, ascending (R78). -/
def heldZones (p : PageNo) (s : State) : List ZoneNo :=
  (List.finRange 24).filter fun z =>
    match s.pctl.holders.get z with
    | some h => h.page = p
    | none => false

/-- The bit a link's data output carries in bit period `b` of the frame in progress: slot b / 16, most significant bit
first (R147).
(PRESUMED, safe: log entry 18) -/
def linkBit (m : Fin 3) (b : Fin 128) (s : State) : Bool :=
  (s.zos.slotOut.get ⟨8 * m.val + b.val / 16, by omega⟩).getLsbD (15 - b.val % 16)

/-- The frame pulse output of every link in bit period `b` of a frame: high in the first bit period of slot 0, low in the other
127 (R147). -/
def linkPulse (b : Fin 128) : Bool := b = 0

end Sys2Proof.Machine
end

