-- ==== Sys2Proof/Machine/Pages.lean ====
section
/-! DEFINITION. The page controller: making pages, wanted sets, acquisition passes, letting zones go, the page life
cycle, floor-ring pages and the Floor Ring Wait list (04_pages_and_zones.md), and the starting and stopping of player
contexts that they call for (05_clips_and_tones.md). -/

namespace Sys2Proof.Machine

/-! ### Player contexts started and stopped -/

/-- A pattern is empty when its first step has duration 0 (R107). -/
def patternEmpty (t : PatternNo) (s : State) : Bool := ((s.ctp.patterns.get t).steps.get 0).duration = 0

/-- A tone context at the first step of a pass (R108, R109).
(DEDUCED, unsafe: log entry 27) -/
def tonePass (use : ToneUse) (t : PatternNo) (passes : Nat) (s : State) : ToneCtx :=
  let st := (s.ctp.patterns.get t).steps.get 0
  { use := use, pattern := t, step := 0, current := st, left := 80 * st.duration, phase := 0, passes := passes,
    silent := patternEmpty t s }

/-- Starts a tone context on a page (R110). -/
def startTone (p : PageNo) (use : ToneUse) (t : PatternNo) (s : State) : State :=
  modContext p (fun x => { x with playing := .tone (tonePass use t 0 s) }) s

/-- The buffer a clip context would fill next: the playing buffer when it is empty, else the other when it is empty;
`true` is B (R102). -/
def emptyBuffer (c : ClipCtx) : Option Bool :=
  let playing := if c.playingB then c.bufB else c.bufA
  let other := if c.playingB then c.bufA else c.bufB
  if playing = .empty then some c.playingB else if other = .empty then some (!c.playingB) else none

/-- Sets buffer B (`true`) or A of a clip context. -/
def putBuffer (toB : Bool) (b : Buffer) (c : ClipCtx) : ClipCtx :=
  if toB then { c with bufB := b } else { c with bufA := b }

/-- The CTP asks the PTU for a page's next block into an empty buffer, when a block is still to fetch and the page has
no fetch outstanding (R102).
(DEDUCED, unsafe: log entry 22) -/
def requestFetch (p : PageNo) (s : State) : State :=
  match (s.ctp.contexts.get p).playing, s.ctp.fetches.get p with
  | .clip c, none =>
    match c.toFetch, emptyBuffer c with
    | true, some toB =>
      putFetch p (some
        { toB := toB, index := c.nextBlock,
          addr := (s.ctp.contexts.get p).entry.addr + BitVec.ofNat 22 (32 * c.nextBlock),
          bursts := 0, data := [], stale := false })
        (modContext p (fun x => { x with playing := .clip (putBuffer toB (.awaiting c.nextBlock) c) }) s)
    | _, _ => s
  | _, _ => s

/-- A clip context before its first block (R102). -/
def freshClip (c : ClipNo) : ClipCtx :=
  { clip := c, passes := 0, nextBlock := 0, toFetch := true, gapLeft := 0, bufA := .empty, bufB := .empty,
    playingB := false, landed := false, underrun := false }

/-- Starts a clip context from block 0 (R102). -/
def startClip (p : PageNo) (c : ClipNo) (s : State) : State :=
  requestFetch p (modContext p (fun x => { x with playing := .clip (freshClip c) }) s)

/-- Stops a page's context; an outstanding fetch is left to land and be discarded (R106). -/
def stopContext (p : PageNo) (s : State) : State :=
  putFetch p ((s.ctp.fetches.get p).map fun f => { f with stale := true })
    (modContext p (fun x => { x with playing := .idle, frameDue := false }) s)

/-! ### Wanted sets (R77) -/

/-- A page record is not RELEASING. -/
def livePage (r : PageRec) : Bool := r.state != .releasing

/-- The wanted set of a page (R77): its target's zones, less the disabled, and for BACKGROUND less the LOUD. -/
def wantedOf (r : PageRec) (s : State) : List ZoneNo :=
  if livePage r then
    (List.finRange 24).filter fun z =>
      (s.pctl.targets.get r.target).getLsbD z.val && s.pctl.enabled.get z
        && !(r.priority = .background && (s.amon.get z).window = .loud)
  else []

/-- The target's zone set less the disabled zones, which R93's step 5 tests. -/
def targetZones (t : TargetNo) (s : State) : List ZoneNo :=
  (List.finRange 24).filter fun z => (s.pctl.targets.get t).getLsbD z.val && s.pctl.enabled.get z

/-! ### Page records made and freed -/

/-- Raises PAGE_STATE for a page (R92). -/
def pageNotice (p : PageNo) (r : PageRec) (v : PageNoticeState) (cause : Option EndCause) (s : State) : State :=
  raiseNotice (.pageState p v cause r.origin r.priority) s

/-- The lowest-numbered free page record (R73). -/
def freePage (s : State) : Option PageNo := (List.finRange 16).find? fun p => (s.pctl.pages.get p).isNone

/-- Makes a page in a record: its wanted set, its place in the Page Order, PAGE_STATE (PENDING), its wait-limit timer,
and the CTP's copy of its clip's directory entry (R73, R74, R77, R87, R92, R101). -/
def makePage (p : PageNo) (r : PageRec) (s : State) : State :=
  let r1 := { r with
    state := .pending, wasActive := false, endCause := none, maxAt := none, wanted := []
    waitAt := if r.waitLimit = 0 then none else some (after (1000 * r.waitLimit) s) }
  let r2 := { r1 with wanted := wantedOf r1 s }
  let entry := match r.source with
    | .clip c => s.ctp.directory.get c
    | _ => ClipEntry.initial
  let s1 := putPage p (some r2) s
  let s2 := { s1 with pctl := { s1.pctl with pageOrder := s1.pctl.pageOrder ++ [p] } }
  pageNotice p r2 .pending none (modContext p (fun x => { x with entry := entry, playing := .idle, frameDue := false }) s2)

/-- A page record in use has the origin GROUP g (R96: g owns it). -/
def ownsPage (g : GroupNo) (s : State) : Bool :=
  (List.finRange 16).any fun p =>
    match s.pctl.pages.get p with
    | some r => r.origin = .group g
    | none => false

/-- The record of a floor-ring page of a group, from the group's shadow as it stands (R96). -/
def floorPage (g : GroupNo) (s : State) : PageRec :=
  let c := (s.deng.groups.get g).config
  { origin := .group g, target := c.floorTarget.getD 0, source := .tone c.ringPattern, priority := c.floorPriority,
    policy := .partialZones, preamble := 0, trim := 0, state := .pending, wasActive := false, wanted := [],
    endCause := none, maxDuration := 0, maxAt := none, waitLimit := 0, waitAt := none }

/-- What PCTL still has to do inside the event it is handling. Log entry 14. -/
inductive PageTask where
  /-- Run an acquisition pass (R82). -/
  | pass
  /-- ZOS's report that a zone being let go has GA 0 (R84, R141). -/
  | zero (z : ZoneNo)
  /-- A page takes an end cause (R90). -/
  | finish (p : PageNo) (c : EndCause)
  deriving DecidableEq, Repr

/-- Offers a freed record to the Floor Ring Wait list (R91, R97): the first group that owns no page leaves the list and
its page is made in the lowest-numbered free record. -/
def offerRecord (s : State) : State × List PageTask :=
  match s.pctl.waitList.find? (fun g => !ownsPage g s), freePage s with
  | some g, some p =>
    (makePage p (floorPage g s) { s with pctl := { s.pctl with waitList := s.pctl.waitList.erase g } }, [.pass])
  | _, _ => (s, [])

/-- Frees a page record (R91): out of the Page Order, its context stopped, PAGE_STATE (ENDED), and the record offered
to the Floor Ring Wait list. -/
def freePageRecord (p : PageNo) (r : PageRec) (s : State) : State × List PageTask :=
  let s1 := putPage p none s
  let s2 := { s1 with pctl := { s1.pctl with pageOrder := s1.pctl.pageOrder.erase p } }
  offerRecord (pageNotice p r .ended r.endCause (stopContext p s2))

/-- After a zone left a page's held set: a RELEASING page whose held set is empty is freed (R91). -/
def freeIfEmptied (p : PageNo) (s : State) : State × List PageTask :=
  match s.pctl.pages.get p with
  | some r => if r.state = .releasing ∧ heldZones p s = [] then freePageRecord p r s else (s, [])
  | none => (s, [])

/-! ### The acquisition pass (R79 to R82) -/

/-- A zone is obtainable to a page of a priority: free, or held by a page of lower priority (R79). -/
def obtainable (pr : PagePriority) (z : ZoneNo) (s : State) : Bool :=
  match s.pctl.holders.get z with
  | none => true
  | some h => priorityRank h.priority < priorityRank pr

/-- The zones a page takes at its turn (R80, R81). -/
def zonesToTake (r : PageRec) (s : State) : List ZoneNo :=
  if r.policy = .allOrWait ∧ r.state = .pending then
    if r.wanted.all (fun z => obtainable r.priority z s) then r.wanted else []
  else r.wanted.filter fun z => obtainable r.priority z s

/-- A page takes one zone; taking it from a lower page is a preemption (R79). -/
def takeZone (p : PageNo) (r : PageRec) (z : ZoneNo) (s : State) : State × List PageTask :=
  let taken := zoneTaken z ⟨p, r.priority, r.trim, false⟩
  match s.pctl.holders.get z with
  | none => (taken s, [])
  | some h =>
    let using? := !h.lettingGo && (match s.pctl.pages.get h.page with | some l => livePage l | none => false)
    let s1 := if using? then raiseNotice (.zoneLost h.page z .preempted (some p)) s else s
    freeIfEmptied h.page (taken s1)

/-- A page enters ACTIVE (R89): its source starts, and its max-duration timer. A TONE source found empty is done at
once (R110). -/
def enterActive (p : PageNo) (s : State) : State × List PageTask :=
  match s.pctl.pages.get p with
  | none => (s, [])
  | some r =>
    let s1 := modPage p (fun r => { r with
      state := .active, wasActive := true
      maxAt := if r.maxDuration = 0 then none else some (after (1000 * r.maxDuration) s) }) s
    let s2 := pageNotice p r .active none s1
    match r.source, r.origin with
    | .live k, _ => (modContext p (fun x => { x with playing := .live k }) s2, [])
    | .clip c, _ => (startClip p c s2, [])
    | .tone t, .group _ => (startTone p .floorRing t s2, [])
    | .tone t, _ =>
      if patternEmpty t s2 then (modContext p (fun x => { x with playing := .idle }) s2, [.finish p .sourceDone])
      else (startTone p .source t s2, [])

/-- A page that has taken its first zone leaves PENDING (R87, R88): to PREAMBLE when it has a preamble pattern that is
not empty, else to ACTIVE. -/
def leavePending (p : PageNo) (s : State) : State × List PageTask :=
  match s.pctl.pages.get p with
  | none => (s, [])
  | some r =>
    let s1 := modPage p (fun r => { r with waitAt := none }) s
    if r.preamble ≠ 0 ∧ patternEmpty r.preamble s1 = false then
      let s2 := modPage p (fun r => { r with state := .preamble }) s1
      (startTone p .preamble r.preamble (pageNotice p r .preamble none s2), [])
    else enterActive p s1

/-- Runs an operation over a list, collecting what it leaves to do. -/
def collect {α : Type} (f : α → State → State × List PageTask) (xs : List α) (s : State) : State × List PageTask :=
  xs.foldl (fun acc x => let r := f x acc.1; (r.1, acc.2 ++ r.2)) (s, [])

/-- A page's turn in a pass (R82): it takes what its policy lets it take, and a PENDING page given a zone moves on
(R87). -/
def visitPage (p : PageNo) (s : State) : State × List PageTask :=
  match s.pctl.pages.get p with
  | none => (s, [])
  | some r =>
    if livePage r then
      let zs := zonesToTake r s
      let a := collect (takeZone p r) zs s
      if r.state = .pending ∧ zs ≠ [] then
        let b := leavePending p a.1
        (b.1, a.2 ++ b.2)
      else a
    else (s, [])

/-- The pages a pass visits: not RELEASING, by priority, highest first, and then in Page Order (R82). -/
def passOrder (s : State) : List PageNo :=
  [PagePriority.emergency, .urgent, .normal, .background].flatMap fun pr =>
    s.pctl.pageOrder.filter fun p =>
      match s.pctl.pages.get p with
      | some r => livePage r && r.priority = pr
      | none => false

/-- An acquisition pass (R82). What its visits leave to do is done when every page has been visited: a page with an empty TONE
source takes SOURCE_DONE then (R89, R110).
(DESIGN CHOICE, unsafe: log entry 35) -/
def acquisitionPass (s : State) : State × List PageTask := collect visitPage (passOrder s) s

/-! ### Letting go, freeing and ending -/

/-- ZOS's report that a zone has GA 0 while it is let go: PCTL frees it, and its page's record with the last
zone, and then runs a pass (R83, R84, R91, R141).
(DEDUCED, unsafe: log entry 14) -/
def zeroReport (z : ZoneNo) (s : State) : State × List PageTask :=
  match s.pctl.holders.get z with
  | some h =>
    if h.lettingGo ∧ (s.zos.zones.get z).ga = 0 then
      let r := freeIfEmptied h.page (zoneFreed z s)
      (r.1, r.2 ++ [.pass])
    else (s, [])
  | none => (s, [])

/-- DENG clears a park slot's link when it names the page (R65). -/
def clearParkLink (n : ParkNo) (p : PageNo) (s : State) : State :=
  match s.deng.parks.get n with
  | some k => if k.page = some p then putPark n (some { k with page := none }) s else s
  | none => s

/-- PCTL's report to DENG of the own end of a page of PARK origin (R65, R95). -/
def reportOwnEnd (p : PageNo) (r : PageRec) (c : EndCause) (s : State) : State :=
  match r.origin with
  | .park n => if c = .linked then s else clearParkLink n p s
  | _ => s

/-- A page takes an end cause, once (R90): its timers stop and its wanted set empties; holding no zone it is freed at
once, otherwise it enters RELEASING and every zone it holds is let go; those with GA 0 are reported and freed by ascending zone
number, with an acquisition pass after each (R83, R84).
(DESIGN CHOICE, unsafe: log entry 35) -/
def takeEndCause (p : PageNo) (c : EndCause) (s : State) : State × List PageTask :=
  match s.pctl.pages.get p with
  | none => (s, [])
  | some r =>
    if r.endCause.isSome then (s, [])
    else
      let r1 := { r with endCause := some c, wanted := [], waitAt := none, maxAt := none }
      let s1 := reportOwnEnd p r c (putPage p (some r1) s)
      let held := heldZones p s1
      if held = [] then freePageRecord p r1 s1
      else
        let r2 := { r1 with state := .releasing }
        let s2 := pageNotice p r2 .releasing (some c) (putPage p (some r2) s1)
        let s3 := held.foldl (fun s z => zoneLetting true z s) s2
        (s3, held.map .zero ++ [.pass])

/-- One thing PCTL has to do, and what it leads to. -/
def pageTask : PageTask → State → State × List PageTask
  | .pass, s => acquisitionPass s
  | .zero z, s => zeroReport z s
  | .finish p c, s => takeEndCause p c s

/-- Does what there is to do, each thing's consequences before the next thing. The count only bounds the recursion.
Log entry 14. -/
def runTasks : Nat → List PageTask → State → State
  | 0, _, s => s
  | _ + 1, [], s => s
  | n + 1, t :: ts, s => runTasks n ((pageTask t s).2 ++ ts) (pageTask t s).1

/-- More than the tasks one event can give rise to: each of at most 16 pages ends at most once inside an event, with at
most 24 zone reports, a pass after each and a page made from its record. -/
def taskLimit : Nat := 4096

/-- Settles PCTL after an event.
(DEDUCED, unsafe: log entry 14) -/
def settle (ts : List PageTask) (s : State) : State := runTasks taskLimit ts s

/-- Gives a page an end cause and settles what follows (R90). -/
def endPage (p : PageNo) (c : EndCause) (s : State) : State := settle [.finish p c] s

/-! ### Recomputing wanted sets (R77) -/

/-- A held zone after its holder's wanted set was recomputed: let go when it left the set, with ZONE_LOST; taken back
when it is being let go, has come back, and its holder is in PREAMBLE or ACTIVE (R84). -/
def reviseZone (p : PageNo) (r : PageRec) (why : ZoneLostReason) (z : ZoneNo) (s : State) : State :=
  match s.pctl.holders.get z with
  | none => s
  | some h =>
    if h.lettingGo then
      if z ∈ r.wanted ∧ (r.state = .preamble ∨ r.state = .active) then zoneLetting false z s else s
    else if z ∈ r.wanted then s
    else zoneLetting true z (raiseNotice (.zoneLost p z why none) s)

/-- Recomputes one page's wanted set and revises its held zones; what is left to do is ZOS's reports for them, and a
pass when the set changed (R77, R84). The zones let go that have GA 0 are reported and freed page by page in Page Order and by
ascending zone number, with a pass after each.
(DESIGN CHOICE, unsafe: log entry 35) -/
def refreshPage (why : ZoneLostReason) (p : PageNo) (s : State) : State × List PageTask :=
  match s.pctl.pages.get p with
  | none => (s, [])
  | some r =>
    if livePage r then
      let r1 := { r with wanted := wantedOf r s }
      if r1.wanted = r.wanted then (s, [])
      else
        let held := heldZones p s
        let s1 := held.foldl (fun s z => reviseZone p r1 why z s) (putPage p (some r1) s)
        (s1, held.map .zero ++ [.pass])
    else (s, [])

/-- Recomputes the wanted sets of the pages concerned, and settles (R77): the pages in Page Order, a page's zones ascending,
and every page before any acquisition pass.
(DESIGN CHOICE, unsafe: log entry 34) -/
def refreshWanted (why : ZoneLostReason) (concerned : PageRec → Bool) (s : State) : State :=
  let ps := s.pctl.pageOrder.filter fun p =>
    match s.pctl.pages.get p with
    | some r => concerned r
    | none => false
  let a := collect (refreshPage why) ps s
  settle a.2 a.1

/-- A zone entered or left LOUD: the BACKGROUND pages' wanted sets are recomputed (R77, R86). -/
def loudChanged (s : State) : State := refreshWanted .loud (fun r => r.priority = .background) s

/-- A held zone is disabled (R85): ZONE_LOST where it applies, and the zone is freed at once, its page's record with the
last zone (R91), before the passes.
(DEDUCED, unsafe: log entry 14) -/
def disableHeld (z : ZoneNo) (s : State) : State × List PageTask :=
  match s.pctl.holders.get z with
  | none => (s, [])
  | some h =>
    let using? := !h.lettingGo && (match s.pctl.pages.get h.page with | some l => livePage l | none => false)
    let s1 := if using? then raiseNotice (.zoneLost h.page z .disabled none) s else s
    let r := freeIfEmptied h.page (zoneFreed z s1)
    (r.1, r.2 ++ [.pass])

/-- PCTL takes a zone's enable flag from the record's first word (R76, R85). -/
def setZoneEnable (z : ZoneNo) (b : Bool) (s : State) : State :=
  if s.pctl.enabled.get z = b then s
  else
    let s1 := { s with pctl := { s.pctl with enabled := putAt s.pctl.enabled z b } }
    let a := if b then (s1, []) else disableHeld z s1
    let ps := a.1.pctl.pageOrder
    let c := collect (refreshPage .disabled) ps a.1
    settle (a.2 ++ c.2) c.1

/-! ### Floor-ring pages and linked ends (R95 to R97) -/

/-- A group's floor condition turned true (R96): its page is made, or it enters the Floor Ring Wait list. -/
def startFloorPage (g : GroupNo) (s : State) : State :=
  match freePage s, ownsPage g s with
  | some p, false => settle [.pass] (makePage p (floorPage g s) s)
  | _, _ =>
    if g ∈ s.pctl.waitList then s
    else { s with pctl := { s.pctl with waitList := s.pctl.waitList ++ [g] } }

/-- The page of an origin that has not taken an end cause (R95, R97). -/
def unendedPage (o : PageOrigin) (s : State) : Option PageNo :=
  (List.finRange 16).find? fun p =>
    match s.pctl.pages.get p with
    | some r => r.origin = o && r.endCause.isNone
    | none => false

/-- A linked end asked by DENG: the page of the origin takes the end cause LINKED (R90, R95). -/
def linkedEnd (o : PageOrigin) (s : State) : State :=
  match unendedPage o s with
  | some p => endPage p .linked s
  | none => s

/-- A group's floor condition turned false (R97). -/
def endFloorPage (g : GroupNo) (s : State) : State :=
  match unendedPage (.group g) s with
  | some p => endPage p .linked s
  | none => { s with pctl := { s.pctl with waitList := s.pctl.waitList.erase g } }

/-! ### Requests for pages (R93, R95) -/

/-- A request for a page, as PAGE_START or PARK gives it (R64, R93). -/
structure PageRequest where
  origin : PageOrigin
  target : Nat
  /-- 1 LIVE, 2 CLIP, 3 TONE; anything else is unknown (11.4). -/
  kind : Nat
  number : Nat
  priority : PagePriority
  policy : PagePolicy
  preamble : Nat
  trim : Int
  maxDuration : Nat
  waitLimit : Nat
  deriving DecidableEq, Repr

/-- The source a request names, when its kind and number are in range (R93, step 1). -/
def requestSource (q : PageRequest) : Option PageSource :=
  match q.kind with
  | 1 => if q.number < 4 then some (.live (Fin.ofNat 4 q.number)) else none
  | 2 => if q.number < 64 then some (.clip (Fin.ofNat 64 q.number)) else none
  | 3 => if q.number ≠ 0 ∧ q.number < 16 then some (.tone (Fin.ofNat 16 q.number)) else none
  | _ => none

/-- A page record in use names a live channel (R93, step 4). -/
def channelBusy (k : LiveNo) (s : State) : Bool :=
  (List.finRange 16).any fun p =>
    match s.pctl.pages.get p with
    | some r => r.source = .live k
    | none => false

/-- The record a request asks for. -/
def requestedPage (q : PageRequest) (src : PageSource) : PageRec :=
  { origin := q.origin, target := Fin.ofNat 32 q.target, source := src, priority := q.priority, policy := q.policy,
    preamble := Fin.ofNat 16 q.preamble, trim := q.trim, state := .pending, wasActive := false, wanted := [],
    endCause := none, maxDuration := q.maxDuration, maxAt := none, waitLimit := q.waitLimit, waitAt := none }

/-- Steps 1 to 5 of R93: the refusal, or the record to use and the page to make in it. -/
def checkPage (q : PageRequest) (s : State) : Except ResultCode (PageNo × PageRec) :=
  match requestSource q with
  | none => .error .badParam
  | some src =>
    if 31 < q.target ∨ 15 < q.preamble ∨ 600 < q.maxDuration ∨ 60 < q.waitLimit then .error .badParam
    else if (match src with | .clip c => (s.ctp.directory.get c).blocks == 0 | _ => false) then .error .badParam
    else match freePage s with
      | none => .error .noPageSlot
      | some p =>
        if (match src with | .live k => channelBusy k s | _ => false) then .error .sourceBusy
        else if targetZones (Fin.ofNat 32 q.target) s = [] then .error .noZones
        else .ok (p, requestedPage q src)

/-- Makes an accepted page and runs its acquisition pass (R93). -/
def makeAccepted (p : PageNo) (r : PageRec) (s : State) : State := settle [.pass] (makePage p r s)

end Sys2Proof.Machine
end

