-- ==== Sys2Proof/Machine/Noise.lean ====
section
/-! DEFINITION. The ambient monitor: microphone samples, blocks and level codes, the noise estimate, the window state
and the silence detector (06_ambient_noise_measurement.md). -/

namespace Sys2Proof.Machine

/-! ### From microphone bit to block level (R116 to R120) -/

/-- A microphone bit as +1 or −1 (R116). -/
def bitValue (b : Bool) : Int := if b then 1 else -1

/-- One bit through the three running sums of 128 values (R117). -/
def pushBit (d : Decimator) (b : Int) : Decimator :=
  let bs := (b :: d.bits).take 128
  let fs := (bs.sum :: d.first).take 128
  { bits := bs, first := fs, second := (fs.sum :: d.second).take 128 }

/-- 128 bits through the decimator, bit 0 first (R117). -/
def pushBits (d : Decimator) (b : BitVec 128) : Decimator :=
  (List.range 128).foldl (fun d i => pushBit d (bitValue (b.getLsbD i))) d

/-- The sample: the third sum divided by 64, rounded down and saturated (R117). -/
def decimated (d : Decimator) : Int := clampInt (d.second.sum / 64) (-32768) 32767

/-- The sample after DC removal, e (R118). -/
def removeDc (adapt : Nat) (dc x : Int) : Int :=
  if adapt = 0 then x else clampInt (x - dc / 65536) (-32768) 32767

/-- The accumulator after a sample (R118). -/
def nextDc (adapt : Nat) (dc x : Int) : Int :=
  if adapt = 0 then 0 else dc + (x * 65536 - dc) / (2 ^ (16 - adapt) : Nat)

/-- The number of samples in a measurement block (R119). -/
def blockLength : Nat := 1000

/-- The level code of a block level (R120). -/
def levelCode (l : Nat) : Nat :=
  if l = 0 then 0 else 8 * l.log2 + (l - 2 ^ l.log2) * 8 / 2 ^ l.log2

/-! ### What an applied block does (R123, R125, R127) -/

/-- NE after an applied block of level code `lc` (R123). -/
def nextNe (f : AmonFields) (ne lc : Nat) : Nat :=
  if ne < 16 * lc then ne + min (16 * lc - ne) f.rise
  else ne - min (ne - 16 * lc) f.fall

/-- The silence count after an applied block (R127, R128). -/
def nextSilence (f : AmonFields) (n lc : Nat) : Nat :=
  if f.mic = false ∨ f.silTime = 0 then 0
  else if lc ≤ f.silLevel then min (n + 1) 2040 else 0

/-- The window state after an applied block, from the updated NL and silence count: the first line of R125's table that
applies. -/
def nextWindow (f : AmonFields) (w : WindowState) (nl silence lc : Nat) : WindowState :=
  if f.mic = false then .normal
  else if f.silTime ≠ 0 ∧ w = .micSilent ∧ lc ≤ f.silLevel then .micSilent
  else if f.silTime ≠ 0 ∧ 8 * f.silTime ≤ silence then .micSilent
  else if f.high ≤ f.low then .normal
  else if w = .loud then (if f.low ≤ nl then .loud else .normal)
  else if f.high < nl then .loud else .normal

/-- The window state right after a zone record write (R122, R126, R127, R128). -/
def windowAtWrite (f : AmonFields) (w : WindowState) : WindowState :=
  if f.mic = false then .normal
  else if w = .loud ∧ f.high ≤ f.low then .normal
  else if w = .micSilent ∧ f.silTime = 0 then .normal
  else w

/-- A change of a zone's window state: NOISE_STATE, ZOS's target gain, and PCTL when LOUD was entered or left (R129);
`level` is the applied block's level code, `none` for a write. -/
def setWindow (z : ZoneNo) (w : WindowState) (level : Option Nat) (s : State) : State :=
  let a := s.amon.get z
  if w = a.window then s
  else
    let s1 := modAmon z (fun a => { a with window := w }) s
    let s2 := regain z (raiseNotice (.noiseState z a.window w (noiseLevel a) level) s1)
    if (w = .loud) = (a.window = .loud) then s2 else loudChanged s2

/-- A completed block is applied when no part of it fell inside a freeze and the part is READY (R123, R131). -/
def applied (a : AmonZone) (s : State) : Bool := !a.tainted && a.freeze = .off && s.ptu.mode = .ready

/-- The measurement context as a new block begins. -/
def beginBlock (a : AmonZone) : AmonZone :=
  { a with blockSum := 0, blockCount := 0, tainted := a.freeze != .off }

/-- A zone's measurement block has its 1000 samples (R119). -/
def blockDue (a : AmonZone) : Bool := blockLength ≤ a.blockCount

/-- The level code of a zone's block (R119, R120). -/
def blockCode (a : AmonZone) : Nat := levelCode (a.blockSum / blockLength)

/-- A zone's context once its block, when it is due, has completed, but for the window state (R119, R123, R127). -/
def blockEnded (s : State) (a : AmonZone) : AmonZone :=
  if !blockDue a then a
  else if applied a s then
    beginBlock { a with
      ne := nextNe a.fields a.ne (blockCode a), silence := nextSilence a.fields a.silence (blockCode a) }
  else beginBlock a

/-- What a zone's completed block hands on, from its context `a` before it: a changed NL to ZOS, and the window state
(R125, R129). -/
def blockHandedOn (z : ZoneNo) (a : AmonZone) (s : State) : State :=
  if blockDue a && applied a s then
    let s1 := if noiseLevel (s.amon.get z) = noiseLevel a then s else regain z s
    setWindow z (nextWindow a.fields a.window (noiseLevel (s.amon.get z)) (s.amon.get z).silence (blockCode a))
      (some (blockCode a)) s1
  else s

/-- All zones in an order: those of a list first, the others behind them by ascending number. -/
def zoneOrder (first : List ZoneNo) : List ZoneNo :=
  first.dedup ++ (List.finRange 24).filter fun z => z ∉ first

/-- The blocks of all zones complete at the same instant (R116, R119): every context first, then what each hands on, zone by
zone in the order the event gives.
(DESIGN CHOICE, unsafe: log entry 17) -/
def completeBlocks (order : List ZoneNo) (s : State) : State :=
  (zoneOrder order).foldl (fun t z => blockHandedOn z (s.amon.get z) t)
    { s with amon := Vector.ofFn fun z => blockEnded s (s.amon.get z) }

/-- A zone's context after 128 more bits (R117, R118, R119). -/
def addSample (b : BitVec 128) (a : AmonZone) : AmonZone :=
  let d := pushBits a.decimator b
  let x := decimated d
  { a with
    decimator := d
    dc := nextDc a.fields.adapt a.dc x
    blockSum := a.blockSum + (removeDc a.fields.adapt a.dc x).natAbs
    blockCount := a.blockCount + 1 }

/-- AMON's part of a zone record write (R121, R122, R128): the fields, then the faults, then the changes made at the
write, with NOISE_STATE behind the faults.
(DESIGN CHOICE, unsafe: log entry 34) -/
def amonWritten (z : ZoneNo) (f : AmonFields) (faults : List FaultField) (s : State) : State :=
  let s1 := modAmon z (fun a => { a with
    fields := f
    dc := if f.adapt = 0 then 0 else a.dc
    silence := if f.mic = false ∨ f.silTime = 0 then 0 else a.silence }) s
  let s2 := configFaults .zone z.val faults s1
  setWindow z (windowAtWrite f (s.amon.get z).window) none s2

/-- AMON's part of the scan's reading of a zone record (R131): NE starts at the clamped Q. -/
def amonScanned (z : ZoneNo) (f : AmonFields) (faults : List FaultField) (s : State) : State :=
  configFaults .zone z.val faults
    (modAmon z (fun a => { a with fields := f, ne := 16 * f.quiet, window := .normal, silence := 0 }) s)

/-! ### The commands -/

/-- MIC_SAMPLE (R116 to R119): every chain takes its 128 bits, whatever its zone's enable, microphone and holder. Blocks that have
their 1000 samples complete before the next sample is added. The chains do not run while the reset pin is low (R130).
(DESIGN CHOICE, unsafe: log entry 17) -/
def execMicSample (order : List ZoneNo) (bits : Vector (BitVec 128) 24) (s : State) : Host.Outcome State Fault Refusal :=
  if s.ptu.mode = .resetLow then .next s
  else
    let s1 := completeBlocks order s
    .next { s1 with amon := Vector.ofFn fun z => addSample (bits.get z) (s1.amon.get z) }

/-- BLOCK_COMPLETE (R116, R123): at the blocks' 1000th sample. -/
def execBlockComplete (order : List ZoneNo) (s : State) : Host.Outcome State Fault Refusal :=
  .next (completeBlocks order s)

/-- RESUME_TIMER_EXPIRY (R124): the freeze ends when the resume timer has run out. -/
def execResumeTimerExpiry (z : ZoneNo) (s : State) : Host.Outcome State Fault Refusal :=
  match (s.amon.get z).freeze with
  | .resuming e => if e ≤ s.ptu.clock then .next (modAmon z (fun a => { a with freeze := .off }) s) else .next s
  | _ => .next s

end Sys2Proof.Machine
end

