-- ==== Sys2Proof/Machine/Zones.lean ====
section
/-! DEFINITION. The commands of the zone table, the page targets, the link enables, the gain ramp and the link frame
(04_pages_and_zones.md, 06_ambient_noise_measurement.md, 07_zone_level_and_output_links.md). -/

namespace Sys2Proof.Machine

/-! ### Writes of a zone record -/

/-- A zone takes new gain fields (R133, R137, R140): GA is limited to the new GMAX, and GT computed again. -/
def takeGain (z : ZoneNo) (g : GainFields) (s : State) : State :=
  regain z (modZos z (fun x => { x with gain := g, ga := min x.ga g.gmax }) s)

/-- ZOS's part of a zone record write (R132, R133): the faults, the fields, and the report to PCTL when a zone being let go
is left with GA 0 (R141), which follows the faults.
(DESIGN CHOICE, unsafe: log entry 35) -/
def zosWritten (z : ZoneNo) (g : GainFields) (faults : List FaultField) (s : State) : State :=
  settle [.zero z] (takeGain z g (configFaults .zone z.val faults s))

/-- AMON decodes the zone record from the copies (R121). -/
def amonDecodes (z : ZoneNo) (s : State) : AmonFields :=
  decodeAmon (copyOf (.zone z 0) s) (copyOf (.zone z 2) s) (copyOf (.zone z 3) s)

/-- ZOS decodes the zone record from the copies (R132). -/
def zosDecodes (z : ZoneNo) (s : State) : GainFields := decodeGain (copyOf (.zone z 0) s) (copyOf (.zone z 1) s)

/-- The owners of a zone record act on a write merged into it: PCTL at a write to the first word (R76), then AMON
(R121), then ZOS (R132). Log entry 15.
(DEDUCED, unsafe: log entry 15) -/
def zoneRecordWritten (z : ZoneNo) (i : Fin 8) (s : State) : State :=
  let s1 := if i = 0 then setZoneEnable z (bit (copyOf (.zone z 0) s) 0) s else s
  let s2 := amonWritten z (amonDecodes z s) (amonFaults (copyOf (.zone z 2) s) (copyOf (.zone z 3) s)) s1
  zosWritten z (zosDecodes z s) (gainFaults (copyOf (.zone z 0) s) (copyOf (.zone z 1) s)) s2

/-- The scan's reading of a whole zone record (R76, R131, R153). -/
def zoneRecordScanned (z : ZoneNo) (s : State) : State :=
  let s1 := setZoneEnable z (bit (copyOf (.zone z 0) s) 0) s
  let s2 := amonScanned z (amonDecodes z s) (amonFaults (copyOf (.zone z 2) s) (copyOf (.zone z 3) s)) s1
  zosWritten z (zosDecodes z s) (gainFaults (copyOf (.zone z 0) s) (copyOf (.zone z 1) s)) s2

/-! ### Page targets and link enables -/

/-- PCTL takes a target's zone set, and recomputes the wanted set of every page that names the target (R75, R77). -/
def targetWritten (t : TargetNo) (s : State) : State :=
  let set : BitVec 24 := (copyOf (.target t) s).setWidth 24
  refreshWanted .target (fun r => r.target = t)
    { s with pctl := { s.pctl with targets := putAt s.pctl.targets t set } }

/-- ZOS takes the three link enables (R148); they act from the next frame start. -/
def linkEnablesWritten (s : State) : State :=
  { s with zos := { s.zos with linkEnable := (copyOf .linkEnables s).setWidth 3 } }

/-! ### The ramp -/

/-- One step of an applied gain toward the target gain (R138). -/
def gainStep (ga gt : Nat) : Nat := if ga < gt then ga + 1 else if gt < ga then ga - 1 else ga

/-- A zone's output stage after the expiry of its ramp timer at a moment (R138). -/
def rampStep (now : Nat) (x : ZosZone) : ZosZone :=
  let ga := gainStep x.ga x.gt
  { x with ga := ga, rampAt := if ga = x.gt then none else some (now + x.gain.ramp) }

/-- RAMP_TIMER_EXPIRY (R138, R141). -/
def execRampTimerExpiry (z : ZoneNo) (s : State) : Host.Outcome State Fault Refusal :=
  if expired (s.zos.zones.get z).rampAt s then .next (settle [.zero z] (modZos z (rampStep s.ptu.clock) s))
  else .next s

/-! ### The link frame -/

/-- The block a clip page waits for, when its player waits for a block being fetched (R104, R105). -/
def awaitedBlock (c : ClipCtx) : Option Nat :=
  if c.gapLeft = 0 then
    match if c.playingB then c.bufB else c.bufA with
    | .awaiting i => some i
    | _ => none
  else none

/-- A zone the page holds on an enabled link has an empty FIFO (R105). -/
def starving (p : PageNo) (s : State) : Bool :=
  (heldZones p s).any fun z => linkOn z s && (s.zos.zones.get z).fifo.isEmpty

/-- A page's underrun episode begins at this frame when the conditions of R105 hold; the pages are looked at in page order.
(DESIGN CHOICE, unsafe: log entry 35) -/
def checkUnderrun (s : State) (p : PageNo) : State :=
  match (s.ctp.contexts.get p).playing with
  | .clip c =>
    match awaitedBlock c with
    | some i =>
      if c.landed && !c.underrun && starving p s then
        raiseNotice (.audioFault p .underrun c.clip.val i)
          (modContext p (fun x => { x with playing := .clip { c with underrun := true } }) s)
      else s
    | none => s
  | _ => s

/-- The value a zone's slot carries in the frame that starts now (R142, R146, R149, R150). -/
def slotValue (z : ZoneNo) (s : State) : Sample :=
  if linkOn z s ∧ (s.pctl.holders.get z).isSome then
    match (s.zos.zones.get z).fifo with
    | v :: _ => sampleOf (scaled v.toInt (s.zos.zones.get z).ga)
    | [] => 0
  else 0

/-- A zone's output stage after the frame's start: one sample leaves the FIFO of a held zone on an enabled link
(R146). -/
def framePop (s : State) (z : ZoneNo) (x : ZosZone) : ZosZone :=
  if linkOn z s ∧ (s.pctl.holders.get z).isSome then { x with fifo := x.fifo.tail } else x

/-- A page feeds no enabled link: it holds no zone on one (R111). -/
def feedsNone (p : PageNo) (s : State) : Bool := (heldZones p s).all fun z => !linkOn z s

/-- ZOS takes the link enables at a frame's start (R147, R148).
(DEDUCED, unsafe: log entry 21) -/
def takeEnables (s : State) : State := { s with zos := { s.zos with linkNow := s.zos.linkEnable } }

/-- ZOS forms the slot values of a frame and takes the samples they use out of the FIFOs (R146, R147). -/
def formSlots (s : State) : State :=
  { s with zos := { s.zos with
      slotOut := Vector.ofFn fun z => slotValue z s
      zones := Vector.ofFn fun z => framePop s z (s.zos.zones.get z) } }

/-- The contexts of pages that feed no enabled link may produce one sample in this frame (R111). Log entry 19.
(DEDUCED, unsafe: log entry 19) -/
def allowFrame (s : State) : State :=
  { s with ctp := { s.ctp with
      contexts := Vector.ofFn fun p => { s.ctp.contexts.get p with frameDue := feedsNone p s } } }

/-- FRAME_START (R105, R111, R146, R147): the enables, the underruns in page order, the slots.
(DESIGN CHOICE, unsafe: log entry 17) -/
def execFrameStart (s : State) : Host.Outcome State Fault Refusal :=
  .next (allowFrame (formSlots ((List.finRange 16).foldl checkUnderrun (takeEnables s))))

end Sys2Proof.Machine
end

