-- ==== Sys2Proof/Machine/Clips.lean ====
section
/-! DEFINITION. The commands of the Clip and Tone Player and the live channels: sample production, block landing,
pattern, directory and live buffer writes, and the two page timers (05_clips_and_tones.md, 04_pages_and_zones.md). -/

namespace Sys2Proof.Machine

/-! ### Tones (R108 to R110) -/

/-- The triangle value of a phase (R108). -/
def triangle (p : BitVec 16) : Int :=
  let n : Int := p.toNat
  if n ≤ 16383 then n else if n ≤ 49151 then 32768 - n else n - 65536

/-- The phase increment of a frequency (R108). -/
def phaseIncrement (f : Nat) : Nat := (f * 8192 + 500) / 1000

/-- The sample a step gives at a phase: 0 for a pause (R108). -/
def toneSample (st : ToneStep) (p : BitVec 16) : Sample :=
  if st.frequency = 0 then 0 else sampleOf (scaled (triangle p) st.level)

/-- The phase after a sample of a step; a pause holds it (R108). -/
def nextPhase (st : ToneStep) (p : BitVec 16) : BitVec 16 := p + BitVec.ofNat 16 (phaseIncrement st.frequency)

/-- The step after step `k`, in the pattern as it stands: none after the eighth, before a step of duration 0, and in a pattern
that has been made empty (R107, R109).
(DEDUCED, unsafe: log entry 31) -/
def stepAfter (t : TonePattern) (k : Fin 8) : Option (Fin 8) :=
  if h : k.val + 1 < 8 then
    if (t.steps.get ⟨k.val + 1, h⟩).duration = 0 ∨ (t.steps.get 0).duration = 0 then none else some ⟨k.val + 1, h⟩
  else none

/-- A tone context at a later step of its pass (R109). -/
def toneStepTo (c : ToneCtx) (k : Fin 8) (s : State) : ToneCtx :=
  let st := (s.ctp.patterns.get c.pattern).steps.get k
  { c with step := k, current := st, left := 80 * st.duration }

/-- The end of a pass of a tone context (R109, R110): the preamble's report, another pass, or SOURCE_DONE. -/
def tonePassEnd (p : PageNo) (c : ToneCtx) (s : State) : State × List PageTask :=
  let again := modContext p (fun x => { x with playing := .tone (tonePass c.use c.pattern (c.passes + 1) s) }) s
  match c.use with
  | .preamble =>
    match s.pctl.pages.get p with
    | some r => if r.state = .preamble then enterActive p (stopContext p s) else (stopContext p s, [])
    | none => (stopContext p s, [])
  | .floorRing => (again, [])
  | .source =>
    let repeats := (s.ctp.patterns.get c.pattern).repeats
    if (repeats = 0 ∨ c.passes + 1 < repeats) ∧ patternEmpty c.pattern s = false then (again, [])
    else (stopContext p s, [.finish p .sourceDone])

/-- A tone context after one sample (R108, R109). -/
def toneAdvance (p : PageNo) (c : ToneCtx) (s : State) : State × List PageTask :=
  let c1 := { c with phase := nextPhase c.current c.phase, left := c.left - 1 }
  if c.silent then (s, [])
  else if 1 < c.left then (modContext p (fun x => { x with playing := .tone c1 }) s, [])
  else match stepAfter (s.ctp.patterns.get c.pattern) c.step with
    | some k => (modContext p (fun x => { x with playing := .tone (toneStepTo c1 k s) }) s, [])
    | none => tonePassEnd p c1 s

/-- The sample a tone context produces next (R108, R110). -/
def toneNext (c : ToneCtx) : Sample := if c.silent then 0 else toneSample c.current c.phase

/-! ### Clips (R102 to R104) -/

/-- The playing buffer (R102). -/
def playingBuffer (c : ClipCtx) : Buffer := if c.playingB then c.bufB else c.bufA

/-- The sample a clip context would produce next: a gap sample, a block's sample, or none while it waits (R104). -/
def clipNext (c : ClipCtx) : Option Sample :=
  if c.gapLeft ≠ 0 then some 0
  else match playingBuffer c with
    | .full _ _ _ (v :: _) => some v
    | _ => none

/-- The playing buffer is used up: it becomes empty and the other becomes the playing buffer (R104). -/
def switchBuffer (c : ClipCtx) : ClipCtx := { putBuffer c.playingB .empty c with playingB := !c.playingB }

/-- Another pass follows one that ends with a number of passes completed (R104). -/
def morePasses (repeats passes : Nat) : Bool := repeats = 0 || passes < repeats

/-- A clip context after one sample (R104). -/
def clipAdvance (p : PageNo) (c : ClipCtx) (s : State) : State × List PageTask :=
  let put (c : ClipCtx) := modContext p (fun x => { x with playing := .clip c }) s
  if c.gapLeft ≠ 0 then (put { c with gapLeft := c.gapLeft - 1 }, [])
  else match playingBuffer c with
    | .full i n final (_ :: v :: rest) => (put (putBuffer c.playingB (.full i n final (v :: rest)) c), [])
    | .full _ _ false _ => (requestFetch p (put (switchBuffer c)), [])
    | .full _ _ true _ =>
      let e := (s.ctp.contexts.get p).entry
      if morePasses e.repeats (c.passes + 1) then
        (requestFetch p (put { switchBuffer c with passes := c.passes + 1, gapLeft := 800 * e.gap }), [])
      else (stopContext p s, [.finish p .sourceDone])
    | _ => (s, [])

/-! ### Production (R111) -/

/-- A page's context may produce a sample now: every FIFO of a held zone on an enabled link has room, or, when the page
holds no such zone, this frame's sample has not been produced (R111).
(DEDUCED, unsafe: log entry 19) -/
def mayProduce (p : PageNo) (s : State) : Bool :=
  if feedsNone p s then (s.ctp.contexts.get p).frameDue
  else (heldZones p s).all fun z => !linkOn z s || (s.zos.zones.get z).fifo.length < Config.fifoDepth

/-- A sample goes into the FIFO of every zone the page holds, and uses up the frame's allowance (R111). -/
def deliver (p : PageNo) (v : Sample) (s : State) : State :=
  (heldZones p s).foldl (fun s z => pushSample v z s) (modContext p (fun x => { x with frameDue := false }) s)

/-- A page's context produces its next sample, if it has one (R111). -/
def produce (p : PageNo) (s : State) : State × List PageTask :=
  match (s.ctp.contexts.get p).playing with
  | .tone c => toneAdvance p c (deliver p (toneNext c) s)
  | .clip c =>
    match clipNext c with
    | some v => clipAdvance p c (deliver p v s)
    | none => (s, [])
  | _ => (s, [])

/-- SAMPLE_PRODUCE (R111). -/
def execSampleProduce (p : PageNo) (s : State) : Host.Outcome State Fault Refusal :=
  if mayProduce p s then
    let r := produce p s
    .next (settle r.2 r.1)
  else .next s

/-! ### The landing of a block (R100, R103) -/

/-- A block is well-formed (R100), by its header word. -/
def wellFormedBlock (header : Word) : Bool := bits header 0 8 = 0xA5 && 1 ≤ bits header 8 8 && bits header 8 8 ≤ 62

/-- The two samples of a word, the low half first (R100, R113). -/
def halves (w : Word) : List Sample := [w.extractLsb' 0 16, w.extractLsb' 16 16]

/-- The samples of a well-formed block (R100). -/
def blockSamples (header : Word) (places : List Word) : List Sample := (places.flatMap halves).take (bits header 8 8)

/-- A well-formed block fills its buffer; a final block may call for the next pass's block 0 (R103, R104). -/
def fillBuffer (p : PageNo) (f : Fetch) (header : Word) (places : List Word) (c : ClipCtx) (s : State) : State :=
  let e := (s.ctp.contexts.get p).entry
  let atEnd := e.blocks ≤ f.index + 1
  let final := bit header 16 || atEnd
  let c1 := putBuffer f.toB (.full f.index (bits header 8 8) final (blockSamples header places))
    { c with landed := true, underrun := false }
  let c2 :=
    if !final then { c1 with nextBlock := f.index + 1 }
    else if e.repeats = 0 || c.passes + 1 < e.repeats then { c1 with nextBlock := 0, toFetch := true }
    else { c1 with toFetch := false }
  let s1 := modContext p (fun x => { x with playing := .clip c2 }) s
  requestFetch p (if atEnd && !bit header 16 then raiseNotice (.audioFault p .noFinal c.clip.val f.index) s1 else s1)

/-- A block lands for a page (R103).
(DEDUCED, unsafe: log entry 22) -/
def landBlock (p : PageNo) (f : Fetch) (words : List Word) (s : State) : State :=
  let s1 := putFetch p none s
  match f.stale, (s.ctp.contexts.get p).playing, words with
  | false, .clip c, header :: places =>
    if wellFormedBlock header then fillBuffer p f header places c s1
    else endPage p .sourceFault (stopContext p (raiseNotice (.audioFault p .clipFormat c.clip.val f.index) s1))
  | _, _, _ => requestFetch p s1

/-- The eight array words of a fetch's burst `k` (R178, R179); addresses wrap modulo 2^22. -/
def fetchWords (f : Fetch) (k : Nat) (s : State) : List Word :=
  (List.range 8).map fun i => arrayWord (f.addr + BitVec.ofNat 22 (8 * k + i)) s

/-- A burst of a page's fetch ends, with the port free again: it has read its eight words, and with the fourth the fetch lands
(R103, R178, R179).
(DEDUCED, unsafe: log entry 7) -/
def fetchBurstEnded (p : PageNo) (s : State) : State :=
  match s.ctp.fetches.get p with
  | none => s
  | some f =>
    let data := f.data ++ fetchWords f f.bursts s
    if f.bursts < 3 then putFetch p (some { f with bursts := f.bursts + 1, data := data }) s else landBlock p f data s

/-! ### Pattern and directory writes (R101, R107) -/

/-- The CTP decodes a pattern from the copies (R107). At the scan's reading of the steps the repeat count is the copy's, which
RESTART kept, until the repeat word is read (R115).
(DESIGN CHOICE, unsafe: log entry 37) -/
def patternDecoded (t : PatternNo) (s : State) : State :=
  let pat : TonePattern :=
    ⟨Vector.ofFn fun i => decodeToneStep (copyOf (.toneStep t i) s), bits (copyOf (.toneRepeat t) s) 0 8⟩
  { s with ctp := { s.ctp with patterns := putAt s.ctp.patterns t pat } }

/-- The faults of a pattern's decode with their steps (R107): step by step, and FREQUENCY before LEVEL.
(DESIGN CHOICE, unsafe: log entry 34) -/
def patternFaults (t : PatternNo) (s : State) : List (Fin 8 × FaultField) :=
  (List.finRange 8).flatMap fun i => (toneStepFaults (copyOf (.toneStep t i) s)).map fun f => (i, f)

/-- A write of a pattern's word, or its reading by the scan: the pattern is decoded again, with the faults of each of its
steps, raised in service and noted during SCANNING (R107, R115).
(DEDUCED, unsafe: log entry 16) -/
def patternWritten (t : PatternNo) (s : State) : State :=
  (patternFaults t s).foldl (fun s x => stepFault .tonePattern t.val x.1.val s x.2) (patternDecoded t s)

/-- The word a TONE_PATTERN_WRITE names: step 0..7, or 8 for the repeat word. -/
def toneWord (t : PatternNo) (i : Fin 9) : Watched :=
  if h : i.val < 8 then .toneStep t ⟨i.val, h⟩ else .toneRepeat t

/-- A write that only reaches the array (R173). -/
def plainArrayWrite (a : Address) (data : Word) (be : ByteEnables) (s : State) : State :=
  arrayWrite a data be (accessStart s)

/-- The CTP decodes a directory entry from the copies (R101). -/
def directoryWritten (c : ClipNo) (s : State) : State :=
  configFaults .clipDirectory c.val (clipFaults (copyOf (.clip c 0) s))
    { s with ctp := { s.ctp with
        directory := putAt s.ctp.directory c (decodeClip (copyOf (.clip c 0) s) (copyOf (.clip c 1) s)) } }

/-! ### Live channels (R113, R114) -/

/-- The samples a write into a live buffer gives (R113). -/
def liveSamples (data : Word) (be : ByteEnables) : List Sample :=
  if be = 0xF#4 then halves data
  else if be = 0x3#4 then [data.extractLsb' 0 16]
  else if be = 0xC#4 then [data.extractLsb' 16 16]
  else []

/-- The page record in use that names a live channel (R93, R114). -/
def livePageOf (k : LiveNo) (s : State) : Option PageNo :=
  (List.finRange 16).find? fun p =>
    match s.pctl.pages.get p with
    | some r => r.source = .live k
    | none => false

/-- A live page takes samples: ACTIVE, or RELEASING after ACTIVE (R114). -/
def takesLive (p : PageNo) (s : State) : Bool :=
  match s.pctl.pages.get p with
  | some r => r.state = .active || (r.state = .releasing && r.wasActive)
  | none => false

/-- One live sample at one held zone (R114). -/
def liveToZone (p : PageNo) (k : LiveNo) (v : Sample) (s : State) (z : ZoneNo) : State :=
  let full := Config.fifoDepth ≤ (s.zos.zones.get z).fifo.length
  if linkOn z s then
    if full then
      if s.ctp.overrun.get z then s
      else putOverrun z true (raiseNotice (.audioFault p .liveOverrun k.val z.val) s)
    else putOverrun z false (pushSample v z s)
  else pushSample v z s

/-- One live sample of a channel, to every zone its page holds, by ascending zone number (R114).
(DESIGN CHOICE, unsafe: log entry 34) -/
def liveSample (k : LiveNo) (s : State) (v : Sample) : State :=
  match livePageOf k s with
  | some p => if takesLive p s then (heldZones p s).foldl (liveToZone p k v) s else s
  | none => s

/-- A write into a live buffer reaches the array, and in service its samples go to the live path (R113, R115);
while the reset pin is low its address is that of the SA_BASE kept (R181).
(DESIGN CHOICE, unsafe: log entry 2) -/
def liveWrite (k : LiveNo) (i : Fin 128) (data : Word) (be : ByteEnables) (s : State) : State :=
  let s1 := plainArrayWrite (saAddress s.ptu.saBase (saOffset (.live k i))) data be s
  if s.ptu.mode = .ready then (liveSamples data be).foldl (liveSample k) s1 else s1

/-! ### Page timers (R87, R89) -/

/-- A page in a state whose timer, read by `t`, has run out.
(DESIGN CHOICE, safe: log entry 5) -/
def pageTimerDue (p : PageNo) (st : PageState) (t : PageRec → Option Nat) (s : State) : Bool :=
  match s.pctl.pages.get p with
  | some r => r.state = st && expired (t r) s
  | none => false

/-- WAIT_LIMIT_EXPIRY (R87). -/
def execWaitLimitExpiry (p : PageNo) (s : State) : Host.Outcome State Fault Refusal :=
  if pageTimerDue p .pending (·.waitAt) s then .next (endPage p .waitLimit s) else .next s

/-- MAX_DURATION_EXPIRY (R89). -/
def execMaxDurationExpiry (p : PageNo) (s : State) : Host.Outcome State Fault Refusal :=
  if pageTimerDue p .active (·.maxAt) s then .next (endPage p .maxDuration s) else .next s

end Sys2Proof.Machine
end

