-- ==== Sys2Proof/Machine/Calls.lean ====
section
/-! DEFINITION. The Distribution Engine's operations on calls: members and eligibility, queues, the floor condition,
selection, offers, the newly-eligible-line arbitration, freeing, arrival, overflow, deflection and re-hunt
(01_lines_and_call_tracking.md, 02_hunt_groups.md). -/

namespace Sys2Proof.Machine

/-! ### Members and eligibility (R23, R26) -/

/-- A position is an effective member: valid, and no lower valid position of the group holds its line (R23).
(DEDUCED, unsafe: log entry 29) -/
def isEffective (h : HuntGroup) (i : MemberPos) : Bool :=
  (h.members.get i).valid
    && (List.finRange 32).all fun j =>
      !(j < i && (h.members.get j).valid && (h.members.get j).line = (h.members.get i).line)

/-- The position at which a line is an effective member of a group (R23). -/
def posOf (h : HuntGroup) (l : LineNo) : Option MemberPos :=
  (List.finRange 32).find? fun i => (h.members.get i).valid && (h.members.get i).line = l

/-- The effective line of a position (R23). -/
def effectiveLine (h : HuntGroup) (i : MemberPos) : Option LineNo :=
  if isEffective h i then some (h.members.get i).line else none

/-- A line is IDLE and carries no reservation (R26). -/
def lineFree (l : LineNo) (s : State) : Bool :=
  (s.lmon.shadows.get l).state = .idle && (s.lmon.shadows.get l).reservation = none

/-- A member position is eligible (R26). -/
def eligibleAt (g : GroupNo) (i : MemberPos) (s : State) : Bool :=
  let h := s.deng.groups.get g
  isEffective h i && (h.members.get i).signedIn && lineFree (h.members.get i).line s

/-- A line is eligible in a group (R26). -/
def eligible (g : GroupNo) (l : LineNo) (s : State) : Bool :=
  match posOf (s.deng.groups.get g) l with
  | some i => eligibleAt g i s
  | none => false

/-- The eligible positions of a group, ascending. -/
def eligibles (g : GroupNo) (s : State) : List MemberPos := (List.finRange 32).filter fun i => eligibleAt g i s

/-! ### Calls and queues (R6, R7, R38) -/

/-- The call record in use that holds a reference (R6). -/
def findCall (r : CallRef) (s : State) : Option CallRecord := s.deng.calls.find? fun c => c.ref = r

/-- A call's current group is `g` (R6). -/
def inGroup (g : GroupNo) (c : CallRecord) : Bool :=
  match c.hunt with
  | some h => h.group = g
  | none => false

/-- A call's priority, 0 for a DIRECT record (R6). -/
def callPriority (c : CallRecord) : Nat :=
  match c.hunt with
  | some h => h.priority.val
  | none => 0

/-- Calls by priority, highest first, keeping their order among equals (R38). -/
def byPriority (cs : List CallRecord) : List CallRecord :=
  [3, 2, 1, 0].flatMap fun p => cs.filter fun c => callPriority c = p

/-- The queued calls of a group among some calls. -/
def queuedIn (g : GroupNo) (cs : List CallRecord) : List CallRecord :=
  cs.filter fun c => c.state = .queued && inGroup g c

/-- A group's queue (R38).
(DEDUCED, unsafe: log entry 11) -/
def queueOf (g : GroupNo) (s : State) : List CallRecord := byPriority (queuedIn g s.deng.calls)

/-- A group's queue has room: it is shorter than the capacity (R37). -/
def queueHasRoom (g : GroupNo) (s : State) : Bool :=
  (queueOf g s).length < (s.deng.groups.get g).config.capacity

/-- Updates the HUNT fields of a call. -/
def modHunt (r : CallRef) (f : HuntPart → HuntPart) (s : State) : State :=
  modCall r (fun c => { c with hunt := c.hunt.map f }) s

/-! ### The floor condition (R46) -/

/-- A call has its floor flag set (R45). -/
def hasFloorFlag (c : CallRecord) : Bool :=
  match c.hunt with
  | some h => h.floorFlag
  | none => false

/-- A group's floor condition, over some calls (R46). -/
def floorCondition (g : GroupNo) (cs : List CallRecord) (h : HuntGroup) : Bool :=
  h.config.floorTarget.isSome
    && (cs.any (fun c => inGroup g c && hasFloorFlag c)
      || (h.config.alarm ≠ 0 && h.config.alarm ≤ (queuedIn g cs).length)
      || (h.night && cs.any (inGroup g)))

/-- Evaluates a group's floor condition over some calls, and asks PCTL to start or end its page on a change (R46). -/
def evalFloorOver (cs : List CallRecord) (g : GroupNo) (s : State) : State :=
  let h := s.deng.groups.get g
  let c := floorCondition g cs h
  if c = h.floorCondition then s
  else
    let s1 := modGroup g (fun h => { h with floorCondition := c }) s
    if c then startFloorPage g s1 else endFloorPage g s1

/-- Evaluates a group's floor condition (R46).
(DEDUCED, unsafe: log entry 13) -/
def evalFloor (g : GroupNo) (s : State) : State := evalFloorOver s.deng.calls g s

/-! ### Selection (R27) -/

/-- The positions a mode selects from some positions in ascending order (R27, R28). -/
def pickByMode (h : HuntGroup) (es : List MemberPos) (s : State) : List MemberPos :=
  match h.config.mode with
  | .linear => es.head?.toList
  | .circular => (es.filter (h.huntPointer < ·) ++ es.filter (· ≤ h.huntPointer)).head?.toList
  | .longestIdle =>
    (s.lmon.idleOrder.findSome? fun l => es.find? fun i => (h.members.get i).line = l).toList
  | .allRing => es

/-- The eligible positions that a selection may take: within one event a line that is still to be arbitrated is withheld,
for R11 (step 5), R39 and R43 (step 7) make it eligible at its arbitration.
(DEDUCED, unsafe: log entry 33) -/
def offerable (withheld : List LineNo) (g : GroupNo) (s : State) : List MemberPos :=
  (eligibles g s).filter fun i => ((s.deng.groups.get g).members.get i).line ∉ withheld

/-- The positions selected for a call in a group, and whether the tried set is cleared (R27).
(DESIGN CHOICE, safe: log entry 12) -/
def select (withheld : List LineNo) (g : GroupNo) (tried : List MemberPos) (s : State) : List MemberPos × Bool :=
  let h := s.deng.groups.get g
  let es := offerable withheld g s
  let untried := es.filter fun i => i ∉ tried
  if untried ≠ [] then (pickByMode h untried s, false)
  else if es = [] then ([], false)
  else
    let rest := es.filter fun i => some i ≠ tried.head?
    (pickByMode h (if rest = [] then es else rest) s, true)

/-- A position joins a call's tried set as the one that failed last (R27); nothing is added for a line that is no member
of the call's current group.
(DESIGN CHOICE, safe: log entry 12) -/
def addTried (r : CallRef) (g : GroupNo) (l : LineNo) (s : State) : State :=
  match posOf (s.deng.groups.get g) l with
  | some i => modHunt r (fun h => { h with tried := i :: h.tried.filter (· ≠ i) }) s
  | none => s

/-! ### Reservations and offers (R4, R29) -/

/-- Puts a reservation into a reservation set, in line-number order. -/
def insertReservation (x : Reservation) : List Reservation → List Reservation
  | [] => [x]
  | y :: ys => if x.line < y.line then x :: y :: ys else y :: insertReservation x ys

/-- Drops a call's reservation of a line, in the shadow and in the set (R4). -/
def dropReservation (r : CallRef) (l : LineNo) (s : State) : State :=
  modCall r (fun c => { c with reservations := c.reservations.filter (·.line ≠ l) })
    (modShadow l (fun x => { x with reservation := none }) s)

/-- Offers a call to one position (R28, R29). The reservation set is not bounded here: R6 gives 0..32, and R36 no bound.
(DESIGN CHOICE, unsafe: log entry 36) -/
def placeOffer (r : CallRef) (g : GroupNo) (s : State) (i : MemberPos) : State :=
  let h := s.deng.groups.get g
  let l := (h.members.get i).line
  let s1 := modShadow l (fun x => { x with reservation := some r }) s
  let s2 := modCall r (fun c =>
    { c with reservations := insertReservation ⟨l, after s.deng.confirmWindow s⟩ c.reservations }) s1
  let s3 := if h.config.mode = .circular then modGroup g (fun h => { h with huntPointer := i }) s2 else s2
  raiseNotice (.offer g r l) s3

/-- Offers a call of group `g` to positions (R29): a queued call first leaves its queue, with the floor condition
evaluated (R39, R41, log entry 13); a call without ringing lines is OFFERED. -/
def offerCall (r : CallRef) (g : GroupNo) (ps : List MemberPos) (s : State) : State :=
  let s1 := modCall r (fun c => { c with state := if c.ringing = [] then .offered else .ringing }) s
  let s2 := match findCall r s with
    | some c => if c.state = .queued then evalFloor g s1 else s1
    | none => s1
  ps.foldl (placeOffer r g) s2

/-! ### The newly eligible line (R36, R41) -/

/-- The group a queued call may be offered a line in: DAY, with the line eligible there (R41). -/
def claims (l : LineNo) (s : State) (c : CallRecord) : Bool :=
  match c.hunt with
  | some h => !(s.deng.groups.get h.group).night && eligible h.group l s
  | none => false

/-- An ALL_RING call that a line may join live (R36); a call with neither ringing line nor reservation is neither offered
nor ringing. A call with 32 reservations is joined like any other.
(DEDUCED, unsafe: log entry 32)
(DESIGN CHOICE, unsafe: log entry 36) -/
def joinable (l : LineNo) (s : State) (c : CallRecord) : Bool :=
  claims l s c
    && (match c.hunt with
      | some h => (s.deng.groups.get h.group).config.mode = .allRing
      | none => false)
    && c.state ≠ .queued && (c.ringing ≠ [] || c.reservations ≠ []) && c.ringing.all (·.line ≠ l)

/-- Offers a line to a call in the call's current group. -/
def offerLine (l : LineNo) (c : CallRecord) (s : State) : State :=
  match c.hunt with
  | some h =>
    match posOf (s.deng.groups.get h.group) l with
    | some i => offerCall c.ref h.group [i] s
    | none => s
  | none => s

/-- The newly-eligible-line arbitration (R41): the first queued call by priority and age, else a live join, else
nothing. -/
def arbitrate (l : LineNo) (s : State) : State :=
  match (byPriority (s.deng.calls.filter fun c => c.state = .queued && claims l s c)).head? with
  | some c => offerLine l c s
  | none =>
    match s.deng.calls.find? (joinable l s) with
    | some c => offerLine l c s
    | none => s

/-- The arbitration for lines one after another (R41). -/
def arbitrateAll (ls : List LineNo) (s : State) : State := ls.foldl (fun s l => arbitrate l s) s

/-! ### Withdrawing and freeing (R9) -/

/-- WITHDRAW for each ringing line in ringing-set order, then for each reservation in line-number order (R15, R16,
R19, R43). -/
def raiseWithdrawals (why : WithdrawReason) (c : CallRecord) (s : State) : State :=
  raiseAll ((c.ringing.map fun e => Notice.withdraw why c.ref e.line)
    ++ c.reservations.map fun x => Notice.withdraw why c.ref x.line) s

/-- Takes the reservations of lines out of their shadows. -/
def clearReservations (ls : List LineNo) (s : State) : State :=
  ls.foldl (fun s l => modShadow l (fun x => { x with reservation := none }) s) s

/-- The lines of a call's reservation set, ascending. -/
def reservedLines (c : CallRecord) : List LineNo := c.reservations.map (·.line)

/-- Takes a call record out of the Call Table and the Presentation Order. -/
def removeCall (r : CallRef) (s : State) : State :=
  { s with deng := { s.deng with calls := s.deng.calls.filter (·.ref ≠ r) } }

/-- Frees a call record (R9). -/
def freeCall (r : CallRef) (s : State) : State :=
  match findCall r s with
  | none => s
  | some c =>
    let s1 := removeCall r (clearReservations (reservedLines c) s)
    let s2 := match c.hunt with
      | some h => evalFloor h.group s1
      | none => s1
    arbitrateAll (reservedLines c) s2

/-! ### Arrival, overflow, deflection and re-hunt (R32, R37, R42 to R45) -/

/-- How the distribution of a call comes to rest: offered or queued, or turned away (R44, R47). -/
inductive Rest where
  | resting
  | ended (g : GroupNo) (hops : Nat) (reason : DeflectReason)
  deriving DecidableEq, Repr

/-- Where a call's distribution in its current group leads (R32, R37). -/
inductive Decision where
  | offer (positions : List MemberPos) (clearTried : Bool)
  | queue
  | overflow (target : GroupNo)
  | turnAway
  deriving DecidableEq, Repr

/-- The distribution of a call in its current group: the tables of R32 and R37. -/
def decision (withheld : List LineNo) (h : HuntPart) (s : State) : Decision :=
  let c := (s.deng.groups.get h.group)
  let room := queueHasRoom h.group s
  if c.night then
    match c.config.overflowTarget with
    | some t => .overflow t
    | none => if room then .queue else .turnAway
  else
    let sel := select withheld h.group h.tried s
    if sel.1 ≠ [] then .offer sel.1 sel.2
    else if room then .queue
    else match c.config.overflowTarget with
      | some t => .overflow t
      | none => .turnAway

/-- The place of a call in its group's queue, the head being 1 (R38). -/
def queuePosition (r : CallRef) (g : GroupNo) (s : State) : Nat := (queueOf g s).findIdx (·.ref = r) + 1

/-- A call queues (R38). -/
def queueCall (r : CallRef) (g : GroupNo) (s : State) : State :=
  let s1 := modHunt r (fun h => { h with noAnswerAt := none }) (modCall r (fun c => { c with state := .queued }) s)
  evalFloor g (raiseNotice (.queued g (queuePosition r g s1) r) s1)

/-- Deflects a call (R44); no DEFLECT is raised during the HUNT that placed it. -/
def deflect (duringHunt : Bool) (r : CallRef) (h : HuntPart) (why : DeflectReason) (s : State) : State × Rest :=
  let s1 := match findCall r s with
    | some c => raiseWithdrawals .deflected c s
    | none => s
  let s2 := if duringHunt then s1 else raiseNotice (.deflect h.group h.hops.val why r) s1
  (freeCall r s2, .ended h.group h.hops.val why)

/-- Carries out a decision other than an overflow. -/
def carryOut (duringHunt : Bool) (r : CallRef) (h : HuntPart) (d : Decision) (s : State) : State × Rest :=
  match d with
  | .offer ps clear =>
    let s1 := if clear then modHunt r (fun h => { h with tried := [] }) s else s
    (evalFloor h.group (offerCall r h.group ps s1), .resting)
  | .queue => (queueCall r h.group s, .resting)
  | _ => deflect duringHunt r h .noTarget s

/-- One more hop (R43); a call's hop count does not exceed 4. -/
def nextHop (n : Fin 5) : Fin 5 := if n.val < 4 then Fin.ofNat 5 (n.val + 1) else n

/-- Steps 2 to 5 of an overflow (R43): the call leaves its group, its lines are withdrawn, its timers stop. -/
def leaveGroup (r : CallRef) (target : GroupNo) (s : State) : State :=
  match findCall r s with
  | none => s
  | some c =>
    match c.hunt with
    | none => s
    | some h =>
      let s1 := clearReservations (reservedLines c) (raiseWithdrawals .overflow c s)
      let s2 := modCall r (fun c => { c with state := .offered, ringing := [], reservations := [] }) s1
      let s3 := modHunt r (fun h => { h with
        hops := nextHop h.hops, noAnswerAt := none, overflowAt := none, floorAt := none }) s2
      let s4 := raiseNotice (.overflow h.group target (nextHop h.hops).val r) s3
      evalFloorOver (s4.deng.calls.filter (·.ref ≠ r)) h.group s4

/-- A timer of a number of seconds started now, 0 for none. -/
def secondsTimer (n : Nat) (s : State) : Option Nat := if n = 0 then none else some (after (1000 * n) s)

/-- What an arrival sets before the call is distributed (R37, R45). -/
def beginArrival (r : CallRef) (g : GroupNo) (s : State) : State :=
  let c := (s.deng.groups.get g).config
  modHunt r (fun h => { h with
    group := g, tried := [], floorFlag := c.floorDelay = 0
    overflowAt := if c.overflowTarget.isSome then secondsTimer c.overflowWait s else none
    floorAt := secondsTimer c.floorDelay s }) s

/-- The HUNT fields of a call. -/
def huntOf (r : CallRef) (s : State) : Option HuntPart :=
  match findCall r s with
  | some c => c.hunt
  | none => none

/-- The lines a call has reserved. -/
def linesOf (r : CallRef) (s : State) : List LineNo :=
  match findCall r s with
  | some c => reservedLines c
  | none => []

/-- An overflow with the number of hops still allowed (R43), through every further overflow it leads to; the lines whose
reservations were dropped are withheld from the arrival and arbitrated last. A group that the call reaches and leaves again
within this event has its floor condition evaluated without the call alone, never while the call is there (R46).
(DEDUCED, unsafe: log entry 33)
(DESIGN CHOICE, unsafe: log entry 43) -/
def overflowN (duringHunt : Bool) : Nat → List LineNo → CallRef → GroupNo → State → State × Rest
  | 0, _, r, _, s =>
    match huntOf r s with
    | some h => deflect duringHunt r h .hops s
    | none => (s, .resting)
  | n + 1, withheld, r, target, s =>
    let dropped := withheld ++ linesOf r s
    let s1 := beginArrival r target (leaveGroup r target s)
    let a := match huntOf r s1 with
      | none => (s1, Rest.resting)
      | some h =>
        match decision dropped h s1 with
        | .overflow t => overflowN duringHunt n dropped r t s1
        | d => carryOut duringHunt r h d s1
    (arbitrateAll (linesOf r s) a.1, a.2)

/-- The hops a call may still make (R43). -/
def hopsLeft (h : HuntPart) : Nat := Config.hopLimit - h.hops.val

/-- A call overflows into a group (R43). -/
def overflowCall (r : CallRef) (h : HuntPart) (target : GroupNo) (s : State) : State :=
  (overflowN false (hopsLeft h) [] r target s).1

/-- Distributes a call in its current group (R32, R37); for an arrival that overflows on or is turned away, the floor condition
is not evaluated while the call is there (R46).
(DESIGN CHOICE, unsafe: log entry 43) -/
def distribute (duringHunt : Bool) (withheld : List LineNo) (r : CallRef) (s : State) : State × Rest :=
  match huntOf r s with
  | none => (s, .resting)
  | some h =>
    match decision withheld h s with
    | .overflow t => overflowN duringHunt (hopsLeft h) withheld r t s
    | d => carryOut duringHunt r h d s

/-- A re-hunt (R32): the no-answer timer stops, and the call is distributed in its current group. -/
def rehunt (withheld : List LineNo) (r : CallRef) (s : State) : State :=
  (distribute false withheld r (modHunt r (fun h => { h with noAnswerAt := none }) s)).1

/-- A call has neither a ringing line nor a reservation. -/
def bare (c : CallRecord) : Bool := c.ringing = [] && c.reservations = []

/-- A call that has lost every ringing line and reservation re-hunts (R12, R13, R31). -/
def rehuntIfBare (withheld : List LineNo) (r : CallRef) (s : State) : State :=
  match findCall r s with
  | some c => if bare c then rehunt withheld r s else s
  | none => s

/-! ### Header and member writes (R21 to R23, R40) -/

/-- The surplus calls leave a shortened queue, from its tail (R40); the count bounds the recursion. -/
def shedSurplus : Nat → GroupNo → State → State
  | 0, _, s => s
  | n + 1, g, s =>
    if (queueOf g s).length ≤ (s.deng.groups.get g).config.capacity then s
    else match (queueOf g s).getLast? with
      | none => s
      | some c =>
        match c.hunt with
        | none => s
        | some h =>
          match (s.deng.groups.get g).config.overflowTarget with
          | some t => shedSurplus n g (overflowCall c.ref h t s)
          | none => shedSurplus n g (deflect false c.ref h .noTarget s).1

/-- The header's configuration as the copies give it (R21). -/
def headerDecodes (g : GroupNo) (s : State) : GroupConfig :=
  decodeHeader (copyOf (.header g 0) s) (copyOf (.header g 1) s) (copyOf (.header g 2) s) (copyOf (.header g 3) s)

/-- DENG decodes a group header from the copies, with its faults (R21). -/
def headerDecoded (g : GroupNo) (s : State) : State :=
  configFaults .groupHeader g.val
    (headerFaults (copyOf (.header g 0) s) (copyOf (.header g 1) s) (copyOf (.header g 2) s))
    (modGroup g (fun h => { h with config := headerDecodes g s }) s)

/-- A header write (R21, R22, R40, R46): the CONFIG_FAULTs before the notices of the surplus calls.
(DEDUCED, unsafe: log entry 30)
(DESIGN CHOICE, unsafe: log entry 35) -/
def headerWritten (g : GroupNo) (s : State) : State :=
  evalFloor g (shedSurplus Config.callRecords g (headerDecoded g s))

/-- The ignored positions of a group: valid, but not effective (R23). -/
def ignoredPositions (h : HuntGroup) : List MemberPos :=
  (List.finRange 32).filter fun i => (h.members.get i).valid && !isEffective h i

/-- The faults of a member write (R23): LINE for the word, then DUPLICATE for every ignored position by ascending position, all
before the arbitration's notices.
(DESIGN CHOICE, unsafe: log entry 35) -/
def memberFaultsRaised (g : GroupNo) (i : MemberPos) (s : State) : State :=
  (ignoredPositions (s.deng.groups.get g)).foldl
    (fun s j => configFault .member (32 * g.val + j.val) s .duplicate)
    (configFaults .member (32 * g.val + i.val) (memberFaults (copyOf (.member g i) s)) s)

/-- The tried set of every call of a group is cleared (R23). -/
def clearTried (g : GroupNo) (c : CallRecord) : CallRecord :=
  if inGroup g c then { c with hunt := c.hunt.map fun h => { h with tried := [] } } else c

/-- What a change of effective lines does to the calls and counts of a group, position by position (R23, log entry 29). A line
that only moved to another position of the group has joined as well.
(DESIGN CHOICE, unsafe: log entry 39) -/
def membersChanged (g : GroupNo) (changed : List MemberPos) (s : State) : State :=
  let s1 := { s with deng := { s.deng with calls := s.deng.calls.map (clearTried g) } }
  let s2 := changed.foldl (fun s i => modMember g i (fun m => { m with noAnswers := 0 }) s) s1
  let joined := changed.filterMap (effectiveLine (s2.deng.groups.get g))
  if s.ptu.mode = .ready then
    joined.foldl (fun s l => if eligible g l s then arbitrate l s else s) s2
  else s2

/-- A member word write (R23). -/
def memberWritten (g : GroupNo) (i : MemberPos) (s : State) : State :=
  let old := s.deng.groups.get g
  let s1 := memberFaultsRaised g i (modMember g i (withMemberWord (copyOf (.member g i) s)) s)
  let new := s1.deng.groups.get g
  let changed := (List.finRange 32).filter fun j => effectiveLine old j ≠ effectiveLine new j
  if changed = [] then s1 else membersChanged g changed s1

/-! ### The commands -/

/-- DENG takes the confirm window and the park time from the control word (R29, R61). -/
def controlWritten (s : State) : State :=
  let w := copyOf .control s
  configFaults .control 0 (controlFaults w)
    { s with deng := { s.deng with confirmWindow := confirmWindowOf w, parkTime := parkTimeOf w } }

/-- The lapse of an offer by its confirm timer (R31): the line is arbitrated before the re-hunt, so none is withheld. -/
def confirmLapse (l : LineNo) (c : CallRecord) (h : HuntPart) (s : State) : State :=
  let s1 := raiseNotice (.offerLapsed h.group .window c.ref l) (dropReservation c.ref l s)
  rehuntIfBare [] c.ref (arbitrate l (addTried c.ref h.group l s1))

/-- The reservation of a line whose confirm timer has run out: its call, with the HUNT fields (R29).
(DESIGN CHOICE, safe: log entry 5) -/
def lapsedOffer (l : LineNo) (s : State) : Option (CallRecord × HuntPart) :=
  match (s.lmon.shadows.get l).reservation with
  | none => none
  | some r =>
    match findCall r s with
    | none => none
    | some c =>
      match c.hunt with
      | none => none
      | some h =>
        if c.reservations.any (fun x => x.line = l && x.confirmAt ≤ s.ptu.clock) then some (c, h) else none

/-- CONFIRM_TIMER_EXPIRY (R31). -/
def execConfirmTimerExpiry (l : LineNo) (s : State) : Host.Outcome State Fault Refusal :=
  match lapsedOffer l s with
  | some (c, h) => .next (confirmLapse l c h s)
  | none => .next s

/-- A member's consecutive no-answer count rises, and auto sign-out follows when it reaches the group's count (R34). A
withdrawal that finds the count at 7 and leaves it there counts as a rise, so it signs the position out too.
(DESIGN CHOICE, unsafe: log entry 42) -/
def raiseCount (g : GroupNo) (i : MemberPos) (s : State) : State :=
  let h := s.deng.groups.get g
  let n := min 7 ((h.members.get i).noAnswers + 1)
  if h.config.autoSignOut ≠ 0 ∧ h.config.autoSignOut ≤ n then
    raiseNotice (.memberOut g i (h.members.get i).line)
      (modMember g i (fun m => { m with signedIn := false, noAnswers := 0 }) s)
  else modMember g i (fun m => { m with noAnswers := n }) s

/-- The tried set and the count of an offered entry withdrawn for no answer (R33). -/
def entryUnanswered (r : CallRef) (g : GroupNo) (s : State) (e : RingEntry) : State :=
  if e.offered then
    match posOf (s.deng.groups.get g) e.line with
    | some i => raiseCount g i (addTried r g e.line s)
    | none => s
  else s

/-- A no-answer expiry outside ALL_RING (R33); the lines whose reservations were dropped are withheld from the re-hunt and
arbitrated after it.
(DEDUCED, unsafe: log entries 23 and 33) -/
def noAnswerWithdraw (c : CallRecord) (h : HuntPart) (s : State) : State :=
  let s1 := raiseAll (c.ringing.map fun e => .withdraw .noAnswer c.ref e.line) s
  let s2 := c.ringing.foldl (entryUnanswered c.ref h.group) (modCall c.ref (fun c => { c with ringing := [] }) s1)
  let s3 := (reservedLines c).foldl (fun s l =>
    addTried c.ref h.group l (raiseNotice (.withdraw .noAnswer c.ref l) (dropReservation c.ref l s))) s2
  arbitrateAll (reservedLines c) (rehunt (reservedLines c) c.ref s3)

/-- A no-answer expiry in an ALL_RING group (R35). -/
def noAnswerAllRing (c : CallRecord) (h : HuntPart) (s : State) : State :=
  let g := (s.deng.groups.get h.group).config
  match g.overflowTarget with
  | some t => overflowCall c.ref h t s
  | none => modHunt c.ref (fun h => { h with noAnswerAt := secondsTimer g.ringTime s }) s

/-- A HUNT call whose timer, read by `t`, has run out.
(DESIGN CHOICE, safe: log entry 5) -/
def dueCall (r : CallRef) (t : HuntPart → Option Nat) (s : State) : Option (CallRecord × HuntPart) :=
  match findCall r s with
  | none => none
  | some c =>
    match c.hunt with
    | none => none
    | some h => if expired (t h) s then some (c, h) else none

/-- NO_ANSWER_TIMER_EXPIRY (R33, R35). -/
def execNoAnswerTimerExpiry (r : CallRef) (s : State) : Host.Outcome State Fault Refusal :=
  match dueCall r (·.noAnswerAt) s with
  | some (c, h) =>
    if (s.deng.groups.get h.group).config.mode = .allRing then .next (noAnswerAllRing c h s)
    else .next (noAnswerWithdraw c h s)
  | none => .next s

/-- OVERFLOW_WAIT_EXPIRY (R42). -/
def execOverflowWaitExpiry (r : CallRef) (s : State) : Host.Outcome State Fault Refusal :=
  match dueCall r (·.overflowAt) s with
  | some (_, h) =>
    match (s.deng.groups.get h.group).config.overflowTarget with
    | some t => .next (overflowCall r h t s)
    | none => .next (modHunt r (fun h => { h with overflowAt := none }) s)
  | none => .next s

/-- FLOOR_DELAY_EXPIRY (R45). -/
def execFloorDelayExpiry (r : CallRef) (s : State) : Host.Outcome State Fault Refusal :=
  match dueCall r (·.floorAt) s with
  | some (_, h) =>
    .next (evalFloor h.group (modHunt r (fun h => { h with floorAt := none, floorFlag := true }) s))
  | none => .next s

end Sys2Proof.Machine
end

