-- ==== Sys2Proof/Machine/Lines.lean ====
section
/-! DEFINITION. Line words, line transitions and what DENG does at a report, and the presentation of the lines after the
scan (01_lines_and_call_tracking.md), with the freeing of park slots (R66, R69). -/

namespace Sys2Proof.Machine

/-! ### Freeing a park slot (R66) -/

/-- Frees a park slot (R66): its linked page ends as a linked end, and the slot becomes empty. -/
def freePark (n : ParkNo) (s : State) : State :=
  match s.deng.parks.get n with
  | none => s
  | some k => putPark n none (if k.page.isSome then linkedEnd (.park n) s else s)

/-! ### The line shadow (R2, R5) -/

/-- A line shadow's state changes, and with it the Idle Order (R5). -/
def setLineState (l : LineNo) (x : LineState) (s : State) : State :=
  let s1 := modShadow l (fun y => { y with state := x }) s
  { s1 with lmon := { s1.lmon with
      idleOrder := if x = .idle then s1.lmon.idleOrder ++ [l] else s1.lmon.idleOrder.erase l } }

/-! ### Joining, answering and abandoning (R13 to R16) -/

/-- The call that a line stands in the ringing set of (R8). -/
def ringingCall (l : LineNo) (s : State) : Option CallRecord :=
  s.deng.calls.find? fun c => c.ringing.any fun e => e.line = l

/-- Takes a line out of a call's ringing set. -/
def leaveRinging (r : CallRef) (l : LineNo) (s : State) : State :=
  modCall r (fun c => { c with ringing := c.ringing.filter (·.line ≠ l) }) s

/-- An OFFERED or QUEUED call becomes RINGING: its no-answer timer starts with the group's ring time, unless that is 0
or the timer runs (R14, R30). A call that is RINGING already starts none.
(DESIGN CHOICE, unsafe: log entry 38) -/
def startRinging (c : CallRecord) (s : State) : State :=
  match c.state, c.hunt with
  | .ringing, _ => s
  | _, none => s
  | _, some h =>
    modHunt c.ref (fun h => { h with
      noAnswerAt := if h.noAnswerAt.isSome then h.noAnswerAt
        else secondsTimer (s.deng.groups.get h.group).config.ringTime s })
      (if c.state = .queued then evalFloor h.group s else s)

/-- A line joins a call's ringing set at the tail (R14). -/
def joinRinging (l : LineNo) (offered : Bool) (c : CallRecord) (s : State) : State :=
  startRinging c (modCall c.ref (fun c => { c with ringing := c.ringing ++ [⟨l, offered⟩], state := .ringing }) s)

/-- A line RINGING a call in use joins it, confirming its offer when it is reserved for the call; a full ringing set
gives TRACK_FULL (R14). A line already in the set stays there (log entry 28). -/
def ringKnown (l : LineNo) (c : CallRecord) (s : State) : State :=
  let reserved : Bool := (s.lmon.shadows.get l).reservation = some c.ref
  let s1 := if reserved then dropReservation c.ref l s else s
  if c.ringing.any fun e => e.line = l then s1
  else if Config.ringingLimit ≤ c.ringing.length then raiseNotice (.trackFull .set c.ref l) s1
  else joinRinging l reserved c s1

/-- A reference held by a park slot (R60). -/
def parkedAs (r : CallRef) (s : State) : Option ParkNo :=
  (List.finRange 16).find? fun n =>
    match s.deng.parks.get n with
    | some k => k.ref = r
    | none => false

/-- A new DIRECT record with one ringing line (R14). -/
def directCall (r : CallRef) (l : LineNo) : CallRecord := ⟨r, .ringing, [⟨l, false⟩], [], none⟩

/-- Appends a call record to the Call Table and the Presentation Order (R7). -/
def addCall (c : CallRecord) (s : State) : State := { s with deng := { s.deng with calls := s.deng.calls ++ [c] } }

/-- A line RINGING a reference (R14). -/
def lineRings (l : LineNo) (r : CallRef) (s : State) : State :=
  match findCall r s with
  | some c => ringKnown l c s
  | none =>
    if (parkedAs r s).isSome then s
    else if s.deng.calls.length < Config.callRecords then addCall (directCall r l) s
    else raiseNotice (.trackFull .table r l) s

/-- The answering member's count returns to 0 (R15, R34). -/
def clearCount (g : GroupNo) (l : LineNo) (s : State) : State :=
  match posOf (s.deng.groups.get g) l with
  | some i => modMember g i (fun m => { m with noAnswers := 0 }) s
  | none => s

/-- Raises the withdrawals of a call as it stands. -/
def withdrawAll (why : WithdrawReason) (r : CallRef) (s : State) : State :=
  match findCall r s with
  | some c => raiseWithdrawals why c s
  | none => s

/-- A call is answered at a line (R15). -/
def answer (l : LineNo) (c : CallRecord) (s : State) : State :=
  let s1 := leaveRinging c.ref l s
  let s2 := if (s.lmon.shadows.get l).reservation = some c.ref then dropReservation c.ref l s1 else s1
  let s3 := raiseNotice (.answered (c.hunt.map (·.group)) c.ref l) s2
  let s4 := match c.hunt with
    | some h => clearCount h.group l s3
    | none => s3
  freeCall c.ref (withdrawAll .answeredElsewhere c.ref s4)

/-- A line TALKING with a reference (R11, R15). -/
def lineTalks (l : LineNo) (r : CallRef) (s : State) : State :=
  match findCall r s with
  | some c => answer l c s
  | none => s

/-- The caller line of a call. -/
def callerOf (c : CallRecord) : Option LineNo :=
  match c.hunt with
  | some h => h.caller
  | none => none

/-- A call is abandoned by its caller line (R16). -/
def abandonCall (l : LineNo) (s : State) (r : CallRef) : State :=
  match findCall r s with
  | some c =>
    match c.hunt with
    | some h => freeCall r (raiseWithdrawals .abandoned c (raiseNotice (.abandonedCall h.group r l) s))
    | none => s
  | none => s

/-- A park slot is abandoned when the line is its held party (R69). -/
def abandonPark (l : LineNo) (s : State) (n : ParkNo) : State :=
  match s.deng.parks.get n with
  | some k => if k.held = some l then freePark n (raiseNotice (.abandonedPark n k.ref l) s) else s
  | none => s

/-- Everything abandoned by a line's transition into IDLE: the calls in Presentation Order, then the parks in slot order
(R16, R69). -/
def abandonAll (l : LineNo) (s : State) : State :=
  let calls := (s.deng.calls.filter fun c => callerOf c = some l).map (·.ref)
  (List.finRange 16).foldl (abandonPark l) (calls.foldl (abandonCall l) s)

/-! ### Lapse and withdrawal at a transition (R12, R13) -/

/-- Whether a new pair settles a reservation of a call by confirmation or answer (R11, step 1). -/
def settles (x : LineState) (r : CallRef) : Bool := x = .ringing r || x = .talking r

/-- An offer lapses because its line left IDLE (R12). -/
def lapseByLine (l : LineNo) (r : CallRef) (s : State) : State :=
  match huntOf r s with
  | some h =>
    rehuntIfBare [l] r (addTried r h.group l (raiseNotice (.offerLapsed h.group .line r l) (dropReservation r l s)))
  | none => dropReservation r l s

/-- Step 1 of R11: a reservation the new pair does not settle lapses. -/
def reservationStep (l : LineNo) (x : LineState) (s : State) : State :=
  match (s.lmon.shadows.get l).reservation with
  | some r => if settles x r then s else lapseByLine l r s
  | none => s

/-- What remains of a call after a line was withdrawn from its ring (R13); a line on its way to IDLE is withheld from the
re-hunt, for it becomes eligible in step 5 of R11.
(DEDUCED, unsafe: log entry 33) -/
def afterWithdrawal (l : LineNo) (offered : Bool) (c : CallRecord) (s : State) : State :=
  if c.ringing ≠ [] then s
  else match c.hunt with
    | none => freeCall c.ref s
    | some h =>
      if c.reservations ≠ [] then
        modHunt c.ref (fun h => { h with noAnswerAt := none }) (modCall c.ref (fun c => { c with state := .offered }) s)
      else rehunt [l] c.ref (if offered then addTried c.ref h.group l s else s)

/-- Step 3 of R11: the withdrawal of a line from the ring of a call it no longer rings or talks to (R13). -/
def withdrawalStep (l : LineNo) (x : LineState) (s : State) : State :=
  match ringingCall l s with
  | none => s
  | some c =>
    if settles x c.ref then s
    else
      let s1 := leaveRinging c.ref l s
      match findCall c.ref s1 with
      | some c1 => afterWithdrawal l (c.ringing.any fun e => e.line = l && e.offered) c1 s1
      | none => s1

/-- Step 4 of R11: the new state. -/
def newStateStep (l : LineNo) (x : LineState) (s : State) : State :=
  match x with
  | .ringing r => lineRings l r s
  | .talking r => lineTalks l r s
  | _ => s

/-- LMON's report of a transition to DENG: the five steps of R11, from the updated shadow. -/
def dengReport (l : LineNo) (x : LineState) (s : State) : State :=
  let s1 := reservationStep l x s
  let s2 := if x = .idle then abandonAll l s1 else s1
  let s3 := newStateStep l x (withdrawalStep l x s2)
  if x = .idle then arbitrate l s3 else s3

/-! ### Writes of line words (R2, R3, R20) -/

/-- LMON notes the CONFIG_FAULTs of a line's words during SCANNING (R20), behind the line's notes so far. Log entry 16.
(DESIGN CHOICE, unsafe: log entry 35) -/
def noteLineFaults (l : LineNo) (region : FaultRegion) (fields : List FaultField) (s : State) : State :=
  let new := (fields.map fun f => (l, ConfigFault.mk region f l.val)).filter fun x => x ∉ s.lmon.noted
  { s with lmon := { s.lmon with noted := s.lmon.noted ++ new } }

/-- The CONFIG_FAULTs of a line word: raised in service, noted during SCANNING. -/
def lineFaults (l : LineNo) (region : FaultRegion) (fields : List FaultField) (s : State) : State :=
  match s.ptu.mode with
  | .scanning => noteLineFaults l region fields s
  | _ => configFaults region l.val fields s

/-- LMON decodes a state word (R2): a change of the decoded pair is a transition, reported to DENG in service, behind the
word's CONFIG_FAULT.
(DESIGN CHOICE, unsafe: log entry 35) -/
def lineStateWritten (l : LineNo) (s : State) : State :=
  let d := decodeLineState (copyOf (.lineState l) s)
  let s1 := lineFaults l .lineState d.2 s
  if (s.lmon.shadows.get l).state = d.1 then s1
  else
    let s2 := setLineState l d.1 s1
    if s.ptu.mode = .ready then dengReport l d.1 s2 else s2

/-- LMON decodes a config word (R3). -/
def lineConfigWritten (l : LineNo) (s : State) : State :=
  let w := copyOf (.lineConfig l) s
  modShadow l (withLineConfig w) (lineFaults l .lineConfig (decodePickup w).2 s)

/-! ### The presentation (R20) -/

/-- Raises the faults LMON noted for a line, in the order noted, and drops the notes (R20).
(DESIGN CHOICE, unsafe: log entry 35) -/
def raiseLineNotes (l : LineNo) (s : State) : State :=
  let mine := s.lmon.noted.filter (·.1 = l)
  raiseAll (mine.map fun x => Notice.configFault x.2)
    { s with lmon := { s.lmon with noted := s.lmon.noted.filter (·.1 ≠ l) } }

/-- Presents one line from its shadow (R20): RINGING and TALKING lines are reported. -/
def presentLine (l : LineNo) (s : State) : State :=
  let s1 := raiseLineNotes l s
  match (s.lmon.shadows.get l).state with
  | .ringing r => dengReport l (.ringing r) s1
  | .talking r => dengReport l (.talking r) s1
  | _ => s1

/-- LINE_PRESENTATION (R20): the next line of the presentation, while one runs. -/
def execLinePresentation (s : State) : Host.Outcome State Fault Refusal :=
  if h : s.lmon.presenting < 1024 then
    .next (presentLine ⟨s.lmon.presenting, h⟩
      { s with lmon := { s.lmon with presenting := s.lmon.presenting + 1 } })
  else .next s

end Sys2Proof.Machine
end

