-- ==== Sys2Proof/Machine/Requests.lean ====
section
/-! DEFINITION. The request slots: writes of parameter and command words, the rotation, and the commands taken from a
slot except RESTART (08_request_slots.md), with the commands' own rules in 01 to 04; and the park timer (R68). -/

namespace Sys2Proof.Machine

/-! ### The slot protocol (R154 to R159) -/

/-- What a command gives back: the result code and the result words. -/
structure Reply where
  code : ResultCode
  word0 : Word
  word1 : Word
  deriving DecidableEq, Repr

/-- A reply without result words. -/
def Reply.bare (c : ResultCode) : Reply := ⟨c, 0, 0⟩

/-- The slot the rotation gives next (R159). -/
def nextPending (s : State) : Option SlotNo :=
  (rotationFrom s.rqu.pointer).find? fun n => (s.rqu.slots.get n).state = .pending

/-- The slot taken now, when the part is READY and its command code is one that `p` accepts (R159). Log entry 5.
(DESIGN CHOICE, safe: log entry 5) -/
def slotFor (p : Nat → Bool) (s : State) : Option SlotNo :=
  if s.ptu.mode = .ready then
    match nextPending s with
    | some n => if p (s.rqu.slots.get n).code.toNat then some n else none
    | none => none
  else none

/-- Writes a command's outcome into its slot, which becomes DONE (R159). -/
def finishSlot (n : SlotNo) (r : Reply) (s : State) : State :=
  modSlot n (fun x => { x with state := .done, result := r.code, result0 := r.word0, result1 := r.word1 }) s

/-- Takes a slot (R159): the pointer moves to it, its owner handles the snapshot, and its outcome is written. -/
def serve (n : SlotNo) (handler : Params → State → State × Reply) (s : State) : State :=
  let a := handler (s.rqu.slots.get n).snapshot { s with rqu := { s.rqu with pointer := n } }
  finishSlot n a.2 a.1

/-- A command row: the slot the rotation gives is served when its code is the row's (R159, 11.4). -/
def command (code : Nat) (handler : Params → State → State × Reply) (s : State) : State :=
  match slotFor (· = code) s with
  | some n => serve n handler s
  | none => s

/-- A refused CMD write raises REQ_REFUSED, or is noted during SCANNING (R156, R157, R160). -/
def refuseCmd (n : SlotNo) (r : CmdRefusal) (s : State) : State :=
  match s.ptu.mode with
  | .scanning => modSlot n (fun x => { x with noted := some r }) s
  | _ => raiseNotice (.reqRefused n r) s

/-- The code of a CMD word (11.4). -/
def cmdCode (w : Word) : BitVec 8 := w.extractLsb' 0 8

/-- The tag of a CMD word (11.4). -/
def cmdTag (w : Word) : BitVec 8 := w.extractLsb' 8 8

/-- A snapshot of a slot's parameter words (R155). -/
def snapshotOf (n : SlotNo) (s : State) : Params :=
  ⟨copyOf (.param n 0) s, copyOf (.param n 1) s, copyOf (.param n 2) s, copyOf (.param n 3) s⟩

/-- The RQU accepts a command into a slot (R155). -/
def acceptCmd (n : SlotNo) (s : State) : State :=
  let w := copyOf (.cmd n) s
  modSlot n (fun x => { x with
    state := .pending, code := cmdCode w, tag := cmdTag w, snapshot := snapshotOf n s
    result := .ok, result0 := 0, result1 := 0 }) s

/-- The RQU at a CMD write: a full-word write is accepted, or refused with BUSY while the slot is PENDING; a partial write
is refused with PARTIAL (R155 to R157). -/
def cmdWritten (n : SlotNo) (be : ByteEnables) (s : State) : State :=
  let w := copyOf (.cmd n) s
  if be = fullWord then
    if (s.rqu.slots.get n).state = .pending then refuseCmd n ⟨cmdCode w, cmdTag w, false⟩ s else acceptCmd n s
  else refuseCmd n ⟨cmdCode w, cmdTag w, true⟩ s

/-- UNKNOWN_COMMAND (R159): a code outside 0x01 to 0x0D. -/
def execUnknownCommand (s : State) : Host.Outcome State Fault Refusal :=
  match slotFor (fun c => c = 0 || 0x0D < c) s with
  | some n => .next (serve n (fun _ s => (s, Reply.bare .unknownCommand)) s)
  | none => .next s

/-! ### Hunting and cancelling (R19, R47) -/

/-- A parameter's line, when it is one (11.4). -/
def lineParam (n : Nat) : Option LineNo := if n ≤ 1023 then some (Fin.ofNat 1024 n) else none

/-- A parameter's group, when it is one. -/
def groupParam (n : Nat) : Option GroupNo := if n ≤ 63 then some (Fin.ofNat 64 n) else none

/-- A HUNT record as HUNT takes it into use (R47), before its arrival. -/
def huntCall (r : CallRef) (g : GroupNo) (priority : Fin 4) (caller : Option LineNo) : CallRecord :=
  { ref := r, state := .offered, ringing := [], reservations := []
    hunt := some { group := g, hops := 0, priority := priority, caller := caller, tried := [], floorFlag := false,
                   noAnswerAt := none, overflowAt := none, floorAt := none } }

/-- The line at the lowest of a call's offered positions (R47). -/
def lowestOffered (c : CallRecord) (h : HuntPart) (s : State) : Nat :=
  match (eligibleOrder h.group s).find? fun l => l ∈ reservedLines c with
  | some l => l.val
  | none => 0
where
  /-- The lines of a group's effective members in position order. -/
  eligibleOrder (g : GroupNo) (s : State) : List LineNo :=
    (List.finRange 32).filterMap (effectiveLine (s.deng.groups.get g))

/-- The result of a HUNT whose call rests in a group (R47, 11.4). -/
def restingReply (r : CallRef) (s : State) : Reply :=
  match findCall r s with
  | none => Reply.bare .ok
  | some c =>
    match c.hunt with
    | none => Reply.bare .ok
    | some h =>
      if c.state = .queued then
        ⟨.ok, packed [(2, 0), (h.group.val, 8), (h.hops.val, 16)], packed [(queuePosition r h.group s, 0)]⟩
      else
        ⟨.ok, packed [(1, 0), (h.group.val, 8), (h.hops.val, 16), (c.reservations.length, 24)],
          packed [(lowestOffered c h s, 0)]⟩

/-- The result of a HUNT (R47, 11.4). -/
def huntReply (r : CallRef) (rest : Rest) (s : State) : Reply :=
  match rest with
  | .resting => restingReply r s
  | .ended g hops why =>
    if hops = 0 then ⟨.groupBusy, packed [(g.val, 8)], 0⟩
    else ⟨.deflected, packed [(g.val, 8), (hops, 16), (deflectValue why, 30)], 0⟩

/-- A reference is held by a call record in use or by a park slot (R47, R62). -/
def refHeld (r : CallRef) (s : State) : Bool := (findCall r s).isSome || (parkedAs r s).isSome

/-- Places a checked HUNT call (R47): its arrival evaluates the floor condition once, after the call has come to rest or is gone
again (R46).
(DEDUCED, unsafe: log entry 13)
(DESIGN CHOICE, unsafe: log entry 43) -/
def placeHunt (r : CallRef) (g : GroupNo) (priority : Fin 4) (caller : Option LineNo) (s : State) : State × Reply :=
  let a := distribute true [] r (beginArrival r g (addCall (huntCall r g priority caller) s))
  (a.1, huntReply r a.2 a.1)

/-- HUNT (R47). -/
def hunt (p : Params) (s : State) : State × Reply :=
  let r : CallRef := BitVec.ofNat 16 (bits p.p0 0 16)
  let caller := lineParam (bits p.p2 0 16)
  match groupParam (bits p.p1 0 8) with
  | none => (s, Reply.bare .badParam)
  | some g =>
    if r = 0 ∨ (bit p.p2 31 ∧ caller = none) then (s, Reply.bare .badParam)
    else if refHeld r s then (s, Reply.bare .callExists)
    else if Config.callRecords ≤ s.deng.calls.length then (s, Reply.bare .tableFull)
    else placeHunt r g (Fin.ofNat 4 (bits p.p1 16 2)) (if bit p.p2 31 then caller else none) s

/-- HUNT (R47), taken from its slot. -/
def execHunt (s : State) : Host.Outcome State Fault Refusal := .next (command 0x01 hunt s)

/-- CANCEL (R19, R70). -/
def cancel (p : Params) (s : State) : State × Reply :=
  let r : CallRef := BitVec.ofNat 16 (bits p.p0 0 16)
  if r = 0 then (s, Reply.bare .badParam)
  else match findCall r s with
    | some c => (freeCall r (raiseWithdrawals .cancelled c s), ⟨.ok, packed [(r.toNat, 0), (1, 16)], 0⟩)
    | none =>
      match parkedAs r s with
      | some n => (freePark n s, ⟨.ok, packed [(r.toNat, 0), (2, 16)], 0⟩)
      | none => (s, Reply.bare .noCall)

/-- CANCEL (R19), taken from its slot. -/
def execCancel (s : State) : Host.Outcome State Fault Refusal := .next (command 0x02 cancel s)

/-! ### Sign-in and service state (R48, R49) -/

/-- The checks SIGN_IN and SIGN_OUT share (R48). -/
def signParams (p : Params) (s : State) : Except ResultCode (GroupNo × LineNo × MemberPos) :=
  match groupParam (bits p.p0 0 8), lineParam (bits p.p1 0 16) with
  | some g, some l =>
    match posOf (s.deng.groups.get g) l with
    | some i => .ok (g, l, i)
    | none => .error .notMember
  | _, _ => .error .badParam

/-- The result words of SIGN_IN and SIGN_OUT (11.4). -/
def signReply (i : MemberPos) (was : Bool) : Reply := ⟨.ok, packed [(i.val, 0), (flag was, 8)], 0⟩

/-- Whether a position is signed in. -/
def isSignedIn (g : GroupNo) (i : MemberPos) (s : State) : Bool := ((s.deng.groups.get g).members.get i).signedIn

/-- SIGN_IN (R48). -/
def signIn (p : Params) (s : State) : State × Reply :=
  match signParams p s with
  | .error e => (s, Reply.bare e)
  | .ok (g, l, i) =>
    let was := isSignedIn g i s
    let s1 := modMember g i (fun m => { m with signedIn := true, noAnswers := 0 }) s
    (if !was && eligibleAt g i s1 then arbitrate l s1 else s1, signReply i was)

/-- SIGN_IN (R48), taken from its slot. -/
def execSignIn (s : State) : Host.Outcome State Fault Refusal := .next (command 0x03 signIn s)

/-- SIGN_OUT (R48). -/
def signOut (p : Params) (s : State) : State × Reply :=
  match signParams p s with
  | .error e => (s, Reply.bare e)
  | .ok (g, _, i) => (modMember g i (fun m => { m with signedIn := false }) s, signReply i (isSignedIn g i s))

/-- SIGN_OUT (R48), taken from its slot. -/
def execSignOut (s : State) : Host.Outcome State Fault Refusal := .next (command 0x04 signOut s)

/-- The result words of SET_NIGHT and SET_DAY (11.4). -/
def serviceReply (was : Bool) : Reply := ⟨.ok, packed [(flag was, 0)], 0⟩

/-- SET_NIGHT (R49). -/
def setNight (p : Params) (s : State) : State × Reply :=
  match groupParam (bits p.p0 0 8) with
  | none => (s, Reply.bare .badParam)
  | some g =>
    let was := (s.deng.groups.get g).night
    (if was then s else evalFloor g (modGroup g (fun h => { h with night := true }) s), serviceReply was)

/-- SET_NIGHT (R49), taken from its slot. -/
def execSetNight (s : State) : Host.Outcome State Fault Refusal := .next (command 0x05 setNight s)

/-- A group goes DAY (R49): the floor condition, then the arbitration for each eligible position's line. -/
def goDay (g : GroupNo) (s : State) : State :=
  let s1 := evalFloor g (modGroup g (fun h => { h with night := false }) s)
  (eligibles g s1).foldl (fun s i => arbitrate ((s.deng.groups.get g).members.get i).line s) s1

/-- SET_DAY (R49). -/
def setDay (p : Params) (s : State) : State × Reply :=
  match groupParam (bits p.p0 0 8) with
  | none => (s, Reply.bare .badParam)
  | some g =>
    let was := (s.deng.groups.get g).night
    (if was then goDay g s else s, serviceReply was)

/-- SET_DAY (R49), taken from its slot. -/
def execSetDay (s : State) : Host.Outcome State Fault Refusal := .next (command 0x06 setDay s)

/-! ### Pickup (R52 to R58) -/

/-- Whether pickup group `q` is in the reach of pickup group `p` (R52). -/
def inReach (p q : PickupNo) (s : State) : Bool :=
  p ≠ 0 && q ≠ 0 && (q = p || (s.deng.permissions.get p).getLsbD q.val)

/-- The pickup group of a line. -/
def pickupOf (l : LineNo) (s : State) : PickupNo := (s.lmon.shadows.get l).pickup

/-- A line rings a call, is reserved for it, or is its caller, so that it cannot pick it up (R54, R57). -/
def ownCall (r : LineNo) (c : CallRecord) (s : State) : Bool :=
  c.ringing.any (·.line = r) || (s.lmon.shadows.get r).state = .ringing c.ref
    || (s.lmon.shadows.get r).reservation = some c.ref || callerOf c = some r

/-- A ringing candidate (R54). -/
def ringingCandidate (r : LineNo) (s : State) (c : CallRecord) : Bool :=
  c.state = .ringing
    && c.ringing.any (fun e =>
      e.line ≠ r && !(s.lmon.shadows.get e.line).noPickupFrom && inReach (pickupOf r s) (pickupOf e.line s) s)
    && !ownCall r c s

/-- A queued candidate (R55). -/
def queuedCandidate (r : LineNo) (s : State) (c : CallRecord) : Bool :=
  match c.hunt with
  | some h =>
    c.state = .queued && inReach (pickupOf r s) (s.deng.groups.get h.group).config.linkedPickup s && h.caller ≠ some r
  | none => false

/-- The claim of a call (R58). -/
def claim (c : CallRecord) (s : State) : State := freeCall c.ref (raiseWithdrawals .picked c s)

/-- The result of a GROUP_PICKUP that takes a call (R56, 11.4). -/
def pickupReply (c : CallRecord) : Reply :=
  match c.state, c.hunt with
  | .queued, some h => ⟨.ok, packed [(c.ref.toNat, 0), (2, 16)], packed [(h.group.val, 0)]⟩
  | _, _ =>
    ⟨.ok, packed [(c.ref.toNat, 0), (1, 16)], packed [((match c.ringing with | e :: _ => e.line.val | [] => 0), 0)]⟩

/-- GROUP_PICKUP (R56). -/
def groupPickup (p : Params) (s : State) : State × Reply :=
  match lineParam (bits p.p0 0 16) with
  | none => (s, Reply.bare .badParam)
  | some r =>
    if pickupOf r s = 0 then (s, Reply.bare .notMember)
    else match s.deng.calls.find? fun c => ringingCandidate r s c || queuedCandidate r s c with
      | some c => (claim c s, pickupReply c)
      | none => (s, Reply.bare .nothing)

/-- GROUP_PICKUP (R56), taken from its slot. -/
def execGroupPickup (s : State) : Host.Outcome State Fault Refusal := .next (command 0x07 groupPickup s)

/-- DIRECTED_PICKUP (R57). -/
def directedPickup (p : Params) (s : State) : State × Reply :=
  match lineParam (bits p.p0 0 16), lineParam (bits p.p1 0 16) with
  | some r, some t =>
    match ringingCall t s with
    | none => (s, Reply.bare .nothing)
    | some c =>
      if t = r ∨ ownCall r c s then (s, Reply.bare .nothing)
      else if (s.lmon.shadows.get t).noPickupFrom then (s, Reply.bare .notPermitted)
      else if (s.lmon.shadows.get r).directedAny || inReach (pickupOf r s) (pickupOf t s) s then
        (claim c s, ⟨.ok, packed [(c.ref.toNat, 0), (1, 16)], packed [(t.val, 0)]⟩)
      else (s, Reply.bare .notPermitted)
  | _, _ => (s, Reply.bare .badParam)

/-- DIRECTED_PICKUP (R57), taken from its slot. -/
def execDirectedPickup (s : State) : Host.Outcome State Fault Refusal := .next (command 0x08 directedPickup s)

/-- DENG takes a pickup group's permission set from the copies (R53). -/
def permissionWritten (p : PickupNo) (s : State) : State :=
  let set : BitVec 64 := copyOf (.permission p 1) s ++ copyOf (.permission p 0) s
  { s with deng := { s.deng with
      permissions := putAt s.deng.permissions p (if p = 0 then 0 else set &&& ~~~1#64) } }

/-! ### Parking (R62 to R68) -/

/-- A line given by PARK: `none` when it is out of range, `some none` when it is not given. -/
def givenLine (given : Bool) (n : Nat) : Option (Option LineNo) :=
  if given then (lineParam n).map some else some none

/-- The slot PARK fills (R62, R63): the named one, or with ANY the lowest empty one, when it is empty. -/
def parkSlot (wanted : Nat) (s : State) : Option ParkNo :=
  if wanted = 0xFF then (List.finRange 16).find? fun n => s.deng.parks.get n = none
  else if s.deng.parks.get (Fin.ofNat 16 wanted) = none then some (Fin.ofNat 16 wanted) else none

/-- The page a park asks for (R64). -/
def parkPage (n : ParkNo) (p3 : Word) : PageRequest :=
  { origin := .park n, target := bits p3 0 8, kind := if bit p3 8 then 3 else 2, number := bits p3 16 8,
    priority := .normal, policy := .partialZones, preamble := bits p3 24 8, trim := 0, maxDuration := 0,
    waitLimit := 0 }

/-- Records a park's linked page (R63).
(DEDUCED, unsafe: log entry 24) -/
def linkPark (n : ParkNo) (p : PageNo) (s : State) : State :=
  putPark n ((s.deng.parks.get n).map fun k => { k with page := some p }) s

/-- Makes a park in a slot, with its page when one is requested (R63, R64). The link is recorded as the page is made (log
entry 24). -/
def makePark (n : ParkNo) (r : CallRef) (parker held : Option LineNo) (p : Params) (s : State) : State × Reply :=
  let s1 := putPark n (some ⟨r, parker, held, after (1000 * s.deng.parkTime) s, none⟩) s
  if bit p.p2 31 then
    match checkPage (parkPage n p.p3) s1 with
    | .ok (page, rec) =>
      (makeAccepted page rec (linkPark n page s1), ⟨.ok, packed [(n.val, 0), (1, 8), (page.val, 16)], 0⟩)
    | .error e => (s1, ⟨.ok, packed [(n.val, 0), (2, 8), (resultValue e, 24)], 0⟩)
  else (s1, ⟨.ok, packed [(n.val, 0)], 0⟩)

/-- PARK (R62). -/
def park (p : Params) (s : State) : State × Reply :=
  let r : CallRef := BitVec.ofNat 16 (bits p.p0 0 16)
  let wanted := bits p.p2 0 8
  match givenLine (bit p.p1 15) (bits p.p1 0 12), givenLine (bit p.p1 31) (bits p.p1 16 12) with
  | some parker, some held =>
    if r = 0 ∨ (15 < wanted ∧ wanted ≠ 0xFF) then (s, Reply.bare .badParam)
    else if refHeld r s then (s, Reply.bare .callExists)
    else match parkSlot wanted s with
      | some n => makePark n r parker held p s
      | none => (s, Reply.bare .parkBusy)
  | _, _ => (s, Reply.bare .badParam)

/-- PARK (R62), taken from its slot. -/
def execPark (s : State) : Host.Outcome State Fault Refusal := .next (command 0x09 park s)

/-- The result words of RETRIEVE (R67, 11.4). -/
def retrieveReply (k : Park) : Reply :=
  ⟨.ok, packed [(k.ref.toNat, 0)],
    match k.held with
    | some l => packed [(l.val, 0), (1, 31)]
    | none => 0⟩

/-- RETRIEVE (R67). -/
def retrieve (p : Params) (s : State) : State × Reply :=
  match lineParam (bits p.p0 0 16) with
  | none => (s, Reply.bare .badParam)
  | some r =>
    if 15 < bits p.p1 0 8 then (s, Reply.bare .badParam)
    else
      let n : ParkNo := Fin.ofNat 16 (bits p.p1 0 8)
      match s.deng.parks.get n with
      | none => (s, Reply.bare .parkEmpty)
      | some k => if k.held = some r then (s, Reply.bare .notPermitted) else (freePark n s, retrieveReply k)

/-- RETRIEVE (R67), taken from its slot. -/
def execRetrieve (s : State) : Host.Outcome State Fault Refusal := .next (command 0x0A retrieve s)

/-- PARK_TIMER_EXPIRY (R68). -/
def execParkTimerExpiry (n : ParkNo) (s : State) : Host.Outcome State Fault Refusal :=
  match s.deng.parks.get n with
  | some k =>
    if k.expiry ≤ s.ptu.clock then .next (freePark n (raiseNotice (.parkRecall n k.ref k.parker k.held) s))
    else .next s
  | none => .next s

/-! ### Pages (R93, R94) -/

/-- The page PAGE_START asks for (11.4). -/
def startRequest (p : Params) : PageRequest :=
  { origin := .request, target := bits p.p0 0 8, kind := bits p.p1 0 2, number := bits p.p1 8 8,
    priority := priorityOf (bits p.p0 8 2), policy := if bit p.p0 12 then .allOrWait else .partialZones,
    preamble := bits p.p2 0 8, trim := (p.p2.extractLsb' 16 5).toInt, maxDuration := bits p.p3 0 16,
    waitLimit := bits p.p3 16 8 }

/-- A page's state code and held count after PAGE_START, FREE and 0 when its record no longer holds it (R93, 11.4, log
entry 25).
(DEDUCED, unsafe: log entry 25) -/
def startReply (p : PageNo) (s : State) : Reply :=
  match s.pctl.pages.get p with
  | some r =>
    if r.origin = .request then
      ⟨.ok, packed [(p.val, 0), (pageStateValue r.state, 8), ((heldZones p s).length, 16)], 0⟩
    else ⟨.ok, packed [(p.val, 0)], 0⟩
  | none => ⟨.ok, packed [(p.val, 0)], 0⟩

/-- PAGE_START (R93). -/
def pageStart (p : Params) (s : State) : State × Reply :=
  match checkPage (startRequest p) s with
  | .error e => (s, Reply.bare e)
  | .ok (n, r) =>
    let s1 := makeAccepted n r s
    (s1, startReply n s1)

/-- PAGE_START (R93), taken from its slot. -/
def execPageStart (s : State) : Host.Outcome State Fault Refusal := .next (command 0x0B pageStart s)

/-- A page's state code after PAGE_END: RELEASING while its record still holds it, else FREE (R94, 11.4). -/
def endReply (n : PageNo) (s : State) : Reply :=
  match s.pctl.pages.get n with
  | some r => if r.endCause = some .request then ⟨.ok, packed [(pageStateValue r.state, 0)], 0⟩ else Reply.bare .ok
  | none => Reply.bare .ok

/-- PAGE_END (R94). -/
def pageEnd (p : Params) (s : State) : State × Reply :=
  if 15 < bits p.p0 0 8 then (s, Reply.bare .badParam)
  else
    let n : PageNo := Fin.ofNat 16 (bits p.p0 0 8)
    match s.pctl.pages.get n with
    | none => (s, Reply.bare .nothing)
    | some r =>
      match r.origin, r.endCause with
      | .group _, _ => (s, Reply.bare .notPermitted)
      | _, some _ => (s, ⟨.nothing, packed [(pageStateValue r.state, 0)], 0⟩)
      | _, none =>
        let s1 := endPage n .request s
        (s1, endReply n s1)

/-- PAGE_END (R94), taken from its slot. -/
def execPageEnd (s : State) : Host.Outcome State Fault Refusal := .next (command 0x0C pageEnd s)

end Sys2Proof.Machine
end

