-- ==== Sys2Proof/Machine/Bus.lean ====
section
/-! DEFINITION. Notices posted and consumed, the arbiter's master order, the start-up scan, RESTART and the reset pin, and
the answered words (09_notice_ring_and_interrupt.md, 10_bus_pass_through_service_area_and_start_up.md). -/

namespace Sys2Proof.Machine

/-! ### The notice unit's words (R167, R169) -/

/-- The merged consumer index (R167). -/
def consumerCopy (s : State) : BitVec 8 := (copyOf .consumer s).setWidth 8

/-- The NTU takes a consumer index. -/
def setConsumer (c : BitVec 8) (s : State) : State := { s with ntu := { s.ntu with consumer := c } }

/-- A consumer index leaves no more records outstanding than before (R167). -/
def consumerAdvances (c : BitVec 8) (s : State) : Bool := (s.ntu.producer - c).toNat ≤ outstanding s.ntu

/-- A consumer write (R167): taken as written, or clamped to the producer with CONFIG_FAULT (CONSUMER); during SCANNING
taken without the check (R171). -/
def consumerWritten (s : State) : State :=
  let c := consumerCopy s
  if s.ptu.mode ≠ .ready then setConsumer c s
  else if consumerAdvances c s then evalInterrupt (endSaturation (setConsumer c s))
  else evalInterrupt (configFault .control 0 (endSaturation (setConsumer s.ntu.producer s)) .consumer)

/-- The NTU takes the threshold, 0 acting as 1, and the holdoff (R169). -/
def interruptWordTaken (s : State) : State :=
  let w := copyOf .interruptWord s
  { s with ntu := { s.ntu with threshold := max 1 (bits w 0 8), holdoff := bits w 8 8 } }

/-- HOLDOFF_EXPIRY (R170): the oldest outstanding record's age has reached the holdoff. -/
def execHoldoffExpiry (s : State) : Host.Outcome State Fault Refusal :=
  if s.ntu.holdoff ≠ 0 ∧ 0 < outstanding s.ntu ∧ s.ntu.holdoff ≤ oldestAge s then .next (evalInterrupt s) else .next s

/-! ### Posting (R166) -/

/-- The array address of word `j` of the record at the producer index (R166). -/
def recordAddress (j : Nat) (s : State) : Address := saAddress s.ptu.saBase (0x2200 + 4 * s.ntu.producer.toNat + j)

/-- Writes the first `k` words of a record at the producer index. -/
def writeRecord (k : Nat) (q : Queued) (s : State) : State :=
  (((recordWords q).zipIdx).take k).foldl (fun t x => arrayWrite (recordAddress x.2 s) x.1 fullWord t) s

/-- What a completed posting does to the NTU (R166). -/
def posted (rest : List Queued) (s : State) : State :=
  { s with ntu := { s.ntu with
      queue := rest, producer := s.ntu.producer + 1
      postedAt := s.ntu.postedAt.set s.ntu.producer.toNat s.ptu.plantTime s.ntu.producer.isLt } }

/-- Takes the burst off the array port. -/
def freePort (s : State) : State := { s with ptu := { s.ptu with burst := none } }

/-- The end of a posting's burst, with the port free again (R166, R168, R170). -/
def postingComplete (q : Queued) (rest : List Queued) (s : State) : State :=
  evalInterrupt (endSaturation (posted rest (writeRecord 4 q s)))

/-- A posting cut after the word access in progress leaves the words written so far in the array: how many is a free value
(R171, R181). Log entry 8.
(DESIGN CHOICE, safe: log entry 8) -/
def cutPosting (s : State) : State :=
  match s.ptu.burst, s.ntu.queue with
  | some .posting, q :: _ =>
    let s1 := writeRecord (1 + Config.freeCut s.ptu.freeCount % 4) q s
    { s1 with ptu := { s1.ptu with freeCount := s1.ptu.freeCount + 1 } }
  | _, _ => s

/-! ### The arbiter (R178 to R180) -/

/-- One burst of a page's fetch starts (R178, R179): the pointer moves to the page, and the burst holds the port. -/
def fetchBurst (p : PageNo) (s : State) : State :=
  { s with ptu := { s.ptu with fetchPointer := p, burst := some (.fetch p) } }

/-- The first burst in master order in service (R179). -/
def serviceBurst (s : State) : State :=
  match (rotationFrom s.ptu.fetchPointer).find? fun p => urgentFetch p s with
  | some p => fetchBurst p s
  | none =>
    if postingDue s then { s with ptu := { s.ptu with burst := some .posting } }
    else match (rotationFrom s.ptu.fetchPointer).find? fun p => otherFetch p s with
      | some p => fetchBurst p s
      | none => s

/-- The first burst in master order (R179, R182). -/
def masterBurst (s : State) : State :=
  match s.ptu.mode with
  | .resetLow => s
  | .scanning =>
    if s.ptu.scanned < Config.scanBursts then { s with ptu := { s.ptu with burst := some .scan } } else s
  | .ready => serviceBurst s

/-! ### The scan (R182 to R184) -/

/-- A watched word's copy is set to its array word (R182). -/
def scanWord (s : State) (w : Watched) : State :=
  { s with ptu := { s.ptu with
      copies := memWrite s.ptu.copies (saOffset w) (arrayWord (saAddress s.ptu.saBase (saOffset w)) s) fullWord } }

/-- A pattern's repeat word as the scan reads it (R115). -/
def repeatScanned (s : State) (t : PatternNo) : State :=
  { s with ctp := { s.ctp with
      patterns := modAt s.ctp.patterns t fun p => { p with repeats := bits (copyOf (.toneRepeat t) s) 0 8 } } }

/-- The patterns of a repeat burst (R182), as `burstWords` splits them.
(DESIGN CHOICE, unsafe: log entry 34) -/
def repeatBurst (j : Fin 2) : List PatternNo := if j.val = 0 then [1, 2, 3, 4, 5, 6, 7, 8] else [9, 10, 11, 12, 13, 14, 15]

/-- A member word as the scan reads it (R24, R51): the sign-in state is the initial one. -/
def memberScanned (g : GroupNo) (s : State) (i : MemberPos) : State :=
  modMember g i (fun m => { m with signedIn := m.initialSignIn }) (memberWritten g i s)

/-- A group header as the scan reads it (R51): the service state is the initial one. -/
def headerScanned (g : GroupNo) (s : State) : State :=
  modGroup g (fun h => { h with night := h.config.initialNight }) (headerDecoded g s)

/-- A line's two words as the scan reads them (R20). -/
def lineScanned (s : State) (l : LineNo) : State := lineConfigWritten l (lineStateWritten l s)

/-- A request slot as the scan reads it (R160, R161). -/
def slotScanned (n : SlotNo) (s : State) : State :=
  if s.ptu.restartSlot = some n then s else modSlot n (fun _ => SlotRec.initial) s

/-- The owners take the words of a burst as scanned values (R182). -/
def scanDeliver (b : ScanBurst) (s : State) : State :=
  match b with
  | .control => controlWritten (linkEnablesWritten (interruptWordTaken (setConsumer (consumerCopy s) s)))
  | .slot n => slotScanned n s
  | .zone z => zoneRecordScanned z s
  | .targets j => (List.finRange 8).foldl (fun s i => targetWritten (Fin.ofNat 32 (8 * j.val + i.val)) s) s
  | .tones t => patternWritten t s
  | .toneRepeats j => (repeatBurst j).foldl repeatScanned s
  | .clips j => (List.finRange 4).foldl (fun s i => directoryWritten (Fin.ofNat 64 (4 * j.val + i.val)) s) s
  | .header g => headerScanned g s
  | .members g j => (List.finRange 8).foldl (fun s i => memberScanned g s (Fin.ofNat 32 (8 * j.val + i.val))) s
  | .permissions j => (List.finRange 4).foldl (fun s i => permissionWritten (Fin.ofNat 64 (4 * j.val + i.val)) s) s
  | .lines j => (List.finRange 4).foldl (fun s i => lineScanned s (Fin.ofNat 1024 (4 * j.val + i.val))) s

/-- The RESTART's slot becomes DONE (R161, R184). -/
def restartDone (s : State) : State :=
  match s.ptu.restartSlot with
  | some n =>
    finishSlot n ⟨.ok, packed [(s.ptu.restartCount.toNat, 0)], 0⟩
      { s with ptu := { s.ptu with restartSlot := none } }
  | none => s

/-- A slot's noted refusal is raised and removed (R160). -/
def raiseRefusal (s : State) (n : SlotNo) : State :=
  match (s.rqu.slots.get n).noted with
  | some r => raiseNotice (.reqRefused n r) (modSlot n (fun x => { x with noted := none }) s)
  | none => s

/-- The noted CONFIG_FAULTs are raised and removed (R184, step 6). -/
def raiseNotedFaults (s : State) : State :=
  raiseAll (s.ntu.noted.map fun x => Notice.configFault x.fault) { s with ntu := { s.ntu with noted := [] } }

/-- Steps 1 to 3 of the scan's end (R172, R184): the producer, READY, and its notice. -/
def enterReady (s : State) : State :=
  raiseNotice (.ready s.ptu.restartSlot.isSome s.ptu.restartCount)
    { s with ptu := { s.ptu with mode := .ready }, ntu := { s.ntu with producer := s.ntu.consumer } }

/-- The scan's end (R184): the presentation begins, and the interrupt follows R170. -/
def endScan (s : State) : State :=
  let s1 := (List.finRange 16).foldl raiseRefusal (restartDone (enterReady s))
  let s2 := raiseNotedFaults s1
  evalInterrupt { s2 with lmon := { s2.lmon with presenting := 0 } }

/-- The end of a scan burst, with the port free again (R182, R184). -/
def scanBurstEnded (b : ScanBurst) (s : State) : State :=
  let s1 := (burstWords b).foldl scanWord s
  let s2 := scanDeliver b { s1 with ptu := { s1.ptu with scanned := s1.ptu.scanned + 1 } }
  if s2.ptu.scanned = Config.scanBursts then endScan s2 else s2

/-! ### RESTART and the reset pin (R181, R185) -/

/-- What RESTART leaves of the request slots (R161). -/
def restartSlots (n : SlotNo) (v : Vector SlotRec 16) : Vector SlotRec 16 :=
  Vector.ofFn fun i => if i = n then v.get i else SlotRec.initial

/-- The blocks after RESTART, for the slot that gave it (R161, R171, R185).
(DEDUCED, unsafe: log entry 30) -/
def restartBlocks (n : SlotNo) (s : State) : State :=
  { s with
    ptu := { s.ptu with
      mode := .scanning, restartCount := s.ptu.restartCount + 1, scanned := 0, restartSlot := some n, burst := none
      holdMark := false, heldAccess := false, fetchPointer := 15 }
    lmon := Lmon.initial
    deng := Deng.initial
    pctl := Pctl.initial
    ctp := Ctp.initial
    amon := Vector.replicate 24 AmonZone.initial
    zos := { Zos.initial with slotOut := s.zos.slotOut }
    rqu := { slots := restartSlots n s.rqu.slots, pointer := n }
    ntu := { s.ntu with queue := [], drops := 0, interrupt := false, noted := [] } }

/-- RESTART, as the PTU carries it out: a posting in flight is cut, and the blocks restart (R185). -/
def restartPart (n : SlotNo) (s : State) : State := restartBlocks n (cutPosting s)

/-- The power-on values (R181). The array is the processor's and keeps its contents; the straps are sampled at the
release. The slots of the frame in progress carry 0 from the fall on (R150).
(DESIGN CHOICE, unsafe: log entry 2)
(DESIGN CHOICE, unsafe: log entry 41) -/
def pinLow (s : State) : State :=
  { State.reset with
    pending := s.pending
    ptu := { Ptu.initial with
      saBase := s.ptu.saBase, array := s.ptu.array, waiting := s.ptu.waiting, freeCount := s.ptu.freeCount } }

/-- RESET_PIN_RELEASE (R174, R181): the straps are sampled and the scan begins. -/
def execResetPinRelease (straps : BitVec 4) (s : State) : Host.Outcome State Fault Refusal :=
  match s.ptu.mode with
  | .resetLow => .next { s with ptu := { s.ptu with mode := .scanning, saBase := straps } }
  | _ => .next s

/-- PLANT_TIME_TICK (R177): a millisecond passes; plant time is held at 0 while the pin is low.
(DESIGN CHOICE, unsafe: log entry 6) -/
def execPlantTimeTick (s : State) : Host.Outcome State Fault Refusal :=
  match s.ptu.mode with
  | .resetLow => .next s
  | _ => .next { s with ptu := { s.ptu with plantTime := s.ptu.plantTime + 1, clock := s.ptu.clock + 1 } }

/-! ### Answered words (R176, 11.2, 11.4, 11.5) -/

/-- The SA offset of an array address, when it lies in the Service Area (R174). -/
def saOffsetOf (a : Address) (s : State) : Option Nat :=
  let base := s.ptu.saBase.toNat * 0x40000
  if base ≤ a.toNat ∧ a.toNat < base + 0x4000 then some (a.toNat - base) else none

/-- The state code of a slot (11.4). -/
def slotStateValue : SlotState → Nat
  | .idle => 0 | .pending => 1 | .done => 2

/-- A slot's STATUS word (R154, 11.4). -/
def statusWord (x : SlotRec) : Word :=
  match x.state with
  | .idle => 0
  | .pending => packed [(1, 0), (x.code.toNat, 8), (x.tag.toNat, 16)]
  | .done => packed [(2, 0), (x.code.toNat, 8), (x.tag.toNat, 16), (resultValue x.result, 24)]

/-- A slot's result word, present in DONE only (R154). -/
def resultWord (x : SlotRec) (w : Word) : Word := if x.state = .done then w else 0

/-- The floor state of a group (R50): PAGING 1, WAITING 2, NONE 0. -/
def floorState (g : GroupNo) (s : State) : Nat :=
  if (List.finRange 16).any fun p =>
      match s.pctl.pages.get p with
      | some r => r.origin = .group g && livePage r
      | none => false
  then 1
  else if g ∈ s.pctl.waitList then 2 else 0

/-- Calls of a group that are OFFERED or RINGING (R50). -/
def offeredOrRinging (g : GroupNo) (s : State) : Nat :=
  (s.deng.calls.filter fun c => inGroup g c && c.state ≠ .queued).length

/-- The group status word (R50, 11.5). -/
def groupStatusWord (g : GroupNo) (s : State) : Word :=
  packed [(flag (s.deng.groups.get g).night, 0), (floorState g s, 2), ((eligibles g s).length, 8),
    ((queueOf g s).length, 16), (offeredOrRinging g s, 24)]

/-- The sign-in word (R24). -/
def signInWord (g : GroupNo) (s : State) : Word :=
  packed ((List.finRange 32).map fun i => (flag (isSignedIn g i s), i.val))

/-- The park status word (R71, 11.5). -/
def parkStatusWord (n : ParkNo) (s : State) : Word :=
  match s.deng.parks.get n with
  | some k =>
    packed [(k.ref.toNat, 0), ((k.expiry - s.ptu.clock + 999) / 1000, 16), (flag k.page.isSome, 30), (1, 31)]
  | none => 0

/-- The page status word (R98, 11.5). -/
def pageStatusWord (p : PageNo) (s : State) : Word :=
  match s.pctl.pages.get p with
  | some r =>
    packed [(pageStateValue r.state, 0), (priorityRank r.priority, 4), ((heldZones p s).length, 8),
      (originKind r.origin, 14), (originNumber r.origin, 16), (sourceKind r.source, 22), (sourceNumber r.source, 24)]
  | none => 0

/-- The number G of the zone status word (11.5). -/
def gainCode (h : Option Holder) (gt : Nat) : Nat :=
  match h with
  | none => 98
  | some h => if h.lettingGo then 97 else gt

/-- The zone status word (R151, 11.5). -/
def zoneStatusWord (z : ZoneNo) (s : State) : Word :=
  let h := s.pctl.holders.get z
  let x := s.zos.zones.get z
  let a := s.amon.get z
  packed [((match h with | some h => h.page.val | none => 0), 28),
    ((gainCode h x.gt * 97 + x.ga) * 3 + windowValue a.window, 13), (noiseLevel a * 65 + x.fifo.length, 0)]

/-- The value of an answered word (R176). -/
def answeredWord (w : Answered) (s : State) : Word :=
  match w with
  | .partStatus =>
    packed [(0x321, 21), (flag (s.ptu.mode = .ready), 20), (Config.revision, 16), (s.ptu.restartCount.toNat, 0)]
  | .plantTime => s.ptu.plantTime
  | .occupancy => packed [(s.deng.calls.length, 0), (s.lmon.idleOrder.length, 16)]
  | .producer => packed [(s.ntu.producer.toNat, 0)]
  | .slotStatus n => statusWord (s.rqu.slots.get n)
  | .slotResult0 n => resultWord (s.rqu.slots.get n) (s.rqu.slots.get n).result0
  | .slotResult1 n => resultWord (s.rqu.slots.get n) (s.rqu.slots.get n).result1
  | .groupStatus g => groupStatusWord g s
  | .signIn g => signInWord g s
  | .parkStatus n => parkStatusWord n s
  | .zoneStatus z => zoneStatusWord z s
  | .pageStatus p => pageStatusWord p s

/-- What a processor read returns (R173, R176): an answered word's value, formed from the state, or the array's word; the
array's while the reset pin is low (R181). Log entry 10.
(DESIGN CHOICE, unsafe: log entry 10) -/
def processorRead (a : Address) (s : State) : Word :=
  match s.ptu.mode, (saOffsetOf a s).bind answeredAt with
  | .resetLow, _ => arrayWord a s
  | _, some w => answeredWord w s
  | _, none => arrayWord a s

end Sys2Proof.Machine
end

