-- ==== Sys2Proof/Machine/Port.lean ====
section
/-! DEFINITION. The array port: what the processor's accesses do, how they wait and are held (R173, R175, R178, R180), and the
commands that start an access or end a burst (10_bus_pass_through_service_area_and_start_up.md). -/

namespace Sys2Proof.Machine

/-! ### What an access does (R173, R175) -/

/-- What the owner of a watched word does at a delivery (R175). -/
def ownerActs (w : Watched) (be : ByteEnables) : State → State :=
  match w with
  | .consumer => consumerWritten
  | .interruptWord => fun s => evalInterrupt (interruptWordTaken s)
  | .linkEnables => linkEnablesWritten
  | .control => controlWritten
  | .param _ _ => fun s => s
  | .cmd n => cmdWritten n be
  | .header g _ => headerWritten g
  | .member g i => memberWritten g i
  | .permission p _ => permissionWritten p
  | .zone z i => zoneRecordWritten z i
  | .target t => targetWritten t
  | .toneStep t _ => patternWritten t
  | .toneRepeat t => patternWritten t
  | .clip c _ => directoryWritten c
  | .lineState l => lineStateWritten l
  | .lineConfig l => lineConfigWritten l
  | .live _ _ => fun s => s

/-- The write of a watched word: a live buffer's word is not merged, every other is (R113, R175). -/
def wordWrite (w : Watched) (data : Word) (be : ByteEnables) (s : State) : State :=
  match w with
  | .live k i => liveWrite k i data be s
  | w => watchedWrite w data be (ownerActs w be) s

/-- The watched word at an array address (R174). -/
def watchedWord (a : Address) (s : State) : Option Watched := (saOffsetOf a s).bind watchedAt

/-- A processor write to an address (R173, R175, R181): by the class of the word there. -/
def processorWrite (a : Address) (data : Word) (be : ByteEnables) (s : State) : State :=
  match s.ptu.mode, watchedWord a s with
  | .resetLow, _ => plainArrayWrite a data be s
  | _, some w => wordWrite w data be s
  | _, none => plainArrayWrite a data be s

/-- The PTU carries an access that has the port, to its acknowledge (R173). -/
def carry (a : Access) (s : State) : State :=
  match a with
  | .plain addr data be => processorWrite addr data be s
  | .watched w data be => wordWrite w data be s
  | .read => accessStart s

/-! ### Waiting and holding (R178, R180) -/

/-- An access that is to start now is held: the port is free, the hold condition is in force and the hold mark clear, and its
one burst has not run yet (R180). -/
def holdDue (s : State) : Bool := s.ptu.burst = none && !s.ptu.heldAccess && holdCondition s && !s.ptu.holdMark

/-- The one burst of a hold starts, in master order (R180). -/
def holdBurst (s : State) : State :=
  let s1 := masterBurst s
  { s1 with ptu := { s1.ptu with heldAccess := true } }

/-- Accesses take the port one after another; from the first that meets a burst on the port they wait (R178, R180).
(DESIGN CHOICE, unsafe: log entry 9) -/
def runAccesses : List Access → State → State
  | [], s => { s with ptu := { s.ptu with waiting := [] } }
  | a :: as, s =>
    let s1 := if holdDue s then holdBurst s else s
    if s1.ptu.burst = none then runAccesses as (carry a s1)
    else { s1 with ptu := { s1.ptu with waiting := a :: as } }

/-- An access arrives behind those that wait (R178). -/
def access (a : Access) (s : State) : State := runAccesses (s.ptu.waiting ++ [a]) s

/-- The port has become free: the waiting accesses start (R178). -/
def portFreed (s : State) : State := runAccesses s.ptu.waiting s

/-! ### Writes -/

/-- PLAIN_WRITE (R173). An address that is a watched word's acts as that word's write.
(DESIGN CHOICE, safe: log entry 26) -/
def execPlainWrite (a : Address) (data : Word) (be : ByteEnables) (s : State) : Host.Outcome State Fault Refusal :=
  .next (access (.plain a data be) s)

/-- LINE_STATE_WRITE (R2, R11). -/
def execLineStateWrite (l : LineNo) (data : Word) (be : ByteEnables) (s : State) :
    Host.Outcome State Fault Refusal :=
  .next (access (.watched (.lineState l) data be) s)

/-- LINE_CONFIG_WRITE (R3). -/
def execLineConfigWrite (l : LineNo) (data : Word) (be : ByteEnables) (s : State) :
    Host.Outcome State Fault Refusal :=
  .next (access (.watched (.lineConfig l) data be) s)

/-- GROUP_HEADER_WRITE (R21). -/
def execGroupHeaderWrite (g : GroupNo) (i : Fin 8) (data : Word) (be : ByteEnables) (s : State) :
    Host.Outcome State Fault Refusal :=
  .next (access (.watched (.header g i) data be) s)

/-- MEMBER_WORD_WRITE (R23). -/
def execMemberWordWrite (g : GroupNo) (i : MemberPos) (data : Word) (be : ByteEnables) (s : State) :
    Host.Outcome State Fault Refusal :=
  .next (access (.watched (.member g i) data be) s)

/-- PERMISSION_WRITE (R53). -/
def execPermissionWrite (p : PickupNo) (i : Fin 2) (data : Word) (be : ByteEnables) (s : State) :
    Host.Outcome State Fault Refusal :=
  .next (access (.watched (.permission p i) data be) s)

/-- CONTROL_WORD_WRITE (R29, R61). -/
def execControlWordWrite (data : Word) (be : ByteEnables) (s : State) : Host.Outcome State Fault Refusal :=
  .next (access (.watched .control data be) s)

/-- LINK_ENABLE_WRITE (R148). -/
def execLinkEnableWrite (data : Word) (be : ByteEnables) (s : State) : Host.Outcome State Fault Refusal :=
  .next (access (.watched .linkEnables data be) s)

/-- ZONE_RECORD_WRITE (R76, R121, R132). -/
def execZoneRecordWrite (z : ZoneNo) (i : Fin 8) (data : Word) (be : ByteEnables) (s : State) :
    Host.Outcome State Fault Refusal :=
  .next (access (.watched (.zone z i) data be) s)

/-- PAGE_TARGET_WRITE (R75). -/
def execPageTargetWrite (t : TargetNo) (data : Word) (be : ByteEnables) (s : State) :
    Host.Outcome State Fault Refusal :=
  .next (access (.watched (.target t) data be) s)

/-- TONE_PATTERN_WRITE (R107). Pattern 0 has no words: a write there is a plain write (11.1).
(DESIGN CHOICE, safe: log entry 26) -/
def execTonePatternWrite (t : PatternNo) (i : Fin 9) (data : Word) (be : ByteEnables) (s : State) :
    Host.Outcome State Fault Refusal :=
  if t = 0 then .next (access (.plain (saAddress s.ptu.saBase (saOffset (toneWord t i))) data be) s)
  else .next (access (.watched (toneWord t i) data be) s)

/-- CLIP_DIRECTORY_WRITE (R101). -/
def execClipDirectoryWrite (c : ClipNo) (i : Fin 2) (data : Word) (be : ByteEnables) (s : State) :
    Host.Outcome State Fault Refusal :=
  .next (access (.watched (.clip c i) data be) s)

/-- LIVE_BUFFER_WRITE (R113, R114). -/
def execLiveBufferWrite (k : LiveNo) (i : Fin 128) (data : Word) (be : ByteEnables) (s : State) :
    Host.Outcome State Fault Refusal :=
  .next (access (.watched (.live k i) data be) s)

/-- CONSUMER_INDEX_WRITE (R167). -/
def execConsumerIndexWrite (data : Word) (be : ByteEnables) (s : State) : Host.Outcome State Fault Refusal :=
  .next (access (.watched .consumer data be) s)

/-- INTERRUPT_WORD_WRITE (R169). -/
def execInterruptWordWrite (data : Word) (be : ByteEnables) (s : State) : Host.Outcome State Fault Refusal :=
  .next (access (.watched .interruptWord data be) s)

/-- PARAMETER_WORD_WRITE (R158): the copy alone changes. -/
def execParameterWordWrite (n : SlotNo) (i : Fin 4) (data : Word) (be : ByteEnables) (s : State) :
    Host.Outcome State Fault Refusal :=
  .next (access (.watched (.param n i) data be) s)

/-- CMD_WRITE (R155 to R157, R160). -/
def execCmdWrite (n : SlotNo) (data : Word) (be : ByteEnables) (s : State) : Host.Outcome State Fault Refusal :=
  .next (access (.watched (.cmd n) data be) s)

/-! ### Bursts -/

/-- MASTER_BURST_START (R178 to R180). In a gap, with the port free and no access waiting, the first burst in master order
starts. With `read` a processor read that uses the port arrives: when it is held, its burst starts before it.
(DESIGN CHOICE, unsafe: log entry 9) -/
def execMasterBurstStart (read : Bool) (s : State) : Host.Outcome State Fault Refusal :=
  if read then .next (access .read s)
  else if s.ptu.burst = none ∧ s.ptu.waiting = [] then .next (masterBurst s)
  else .next s

/-- SCAN_BURST_END (R182, R184). -/
def execScanBurstEnd (s : State) : Host.Outcome State Fault Refusal :=
  match s.ptu.mode, s.ptu.burst, scanBurstAt s.ptu.scanned with
  | .scanning, some .scan, some b => .next (portFreed (scanBurstEnded b (freePort s)))
  | _, _, _ => .next s

/-- BLOCK_FETCH_LANDS (R103, R178): the burst of a page's fetch that is on the port ends; with the fourth the fetch lands. The row
names the landing, and no row names the end of a burst before it.
(DESIGN CHOICE, unsafe: log entry 7) -/
def execBlockFetchLands (s : State) : Host.Outcome State Fault Refusal :=
  match s.ptu.burst with
  | some (.fetch p) => .next (portFreed (fetchBurstEnded p (freePort s)))
  | _ => .next s

/-- NOTICE_POSTING_COMPLETE (R166, R168, R170). -/
def execNoticePostingComplete (s : State) : Host.Outcome State Fault Refusal :=
  match s.ptu.burst, s.ntu.queue with
  | some .posting, q :: rest => .next (portFreed (postingComplete q rest (freePort s)))
  | _, _ => .next s

/-- RESTART (R185), taken from its slot; an access that waited behind the burst it cuts then starts. -/
def execRestart (s : State) : Host.Outcome State Fault Refusal :=
  match slotFor (· = 0x0D) s with
  | some n => .next (portFreed (restartPart n s))
  | none => .next s

/-- RESET_PIN_FALL (R181): a posting is cut, and every block takes its power-on values; an access that waited behind a burst is
carried to the array. -/
def execResetPinFall (s : State) : Host.Outcome State Fault Refusal := .next (portFreed (pinLow (cutPosting s)))

end Sys2Proof.Machine
end

