-- ==== Sys2Proof/Machine/Dispatch.lean ====
section
/-! DEFINITION. One arm for each command: its meaning. -/

namespace Sys2Proof.Machine

/-- What a command does to everything but the queue. -/
def exec (i : Instr) (s : State) : Host.Outcome State Fault Refusal :=
  match i with
  | .resetPinFall => Sys2Proof.Machine.execResetPinFall s
  | .resetPinRelease straps => Sys2Proof.Machine.execResetPinRelease straps s
  | .plantTimeTick => Sys2Proof.Machine.execPlantTimeTick s
  | .plainWrite addr data be => Sys2Proof.Machine.execPlainWrite addr data be s
  | .masterBurstStart read => Sys2Proof.Machine.execMasterBurstStart read s
  | .scanBurstEnd => Sys2Proof.Machine.execScanBurstEnd s
  | .linePresentation => Sys2Proof.Machine.execLinePresentation s
  | .lineStateWrite line data be => Sys2Proof.Machine.execLineStateWrite line data be s
  | .lineConfigWrite line data be => Sys2Proof.Machine.execLineConfigWrite line data be s
  | .groupHeaderWrite group word data be => Sys2Proof.Machine.execGroupHeaderWrite group word data be s
  | .memberWordWrite group position data be => Sys2Proof.Machine.execMemberWordWrite group position data be s
  | .permissionWrite pickup word data be => Sys2Proof.Machine.execPermissionWrite pickup word data be s
  | .controlWordWrite data be => Sys2Proof.Machine.execControlWordWrite data be s
  | .linkEnableWrite data be => Sys2Proof.Machine.execLinkEnableWrite data be s
  | .zoneRecordWrite zone word data be => Sys2Proof.Machine.execZoneRecordWrite zone word data be s
  | .pageTargetWrite target data be => Sys2Proof.Machine.execPageTargetWrite target data be s
  | .tonePatternWrite pattern word data be => Sys2Proof.Machine.execTonePatternWrite pattern word data be s
  | .clipDirectoryWrite clip word data be => Sys2Proof.Machine.execClipDirectoryWrite clip word data be s
  | .liveBufferWrite channel word data be => Sys2Proof.Machine.execLiveBufferWrite channel word data be s
  | .consumerIndexWrite data be => Sys2Proof.Machine.execConsumerIndexWrite data be s
  | .interruptWordWrite data be => Sys2Proof.Machine.execInterruptWordWrite data be s
  | .parameterWordWrite slot word data be => Sys2Proof.Machine.execParameterWordWrite slot word data be s
  | .cmdWrite slot data be => Sys2Proof.Machine.execCmdWrite slot data be s
  | .hunt => Sys2Proof.Machine.execHunt s
  | .cancel => Sys2Proof.Machine.execCancel s
  | .signIn => Sys2Proof.Machine.execSignIn s
  | .signOut => Sys2Proof.Machine.execSignOut s
  | .setNight => Sys2Proof.Machine.execSetNight s
  | .setDay => Sys2Proof.Machine.execSetDay s
  | .groupPickup => Sys2Proof.Machine.execGroupPickup s
  | .directedPickup => Sys2Proof.Machine.execDirectedPickup s
  | .park => Sys2Proof.Machine.execPark s
  | .retrieve => Sys2Proof.Machine.execRetrieve s
  | .pageStart => Sys2Proof.Machine.execPageStart s
  | .pageEnd => Sys2Proof.Machine.execPageEnd s
  | .restart => Sys2Proof.Machine.execRestart s
  | .unknownCommand => Sys2Proof.Machine.execUnknownCommand s
  | .confirmTimerExpiry line => Sys2Proof.Machine.execConfirmTimerExpiry line s
  | .noAnswerTimerExpiry ref => Sys2Proof.Machine.execNoAnswerTimerExpiry ref s
  | .overflowWaitExpiry ref => Sys2Proof.Machine.execOverflowWaitExpiry ref s
  | .floorDelayExpiry ref => Sys2Proof.Machine.execFloorDelayExpiry ref s
  | .parkTimerExpiry slot => Sys2Proof.Machine.execParkTimerExpiry slot s
  | .waitLimitExpiry page => Sys2Proof.Machine.execWaitLimitExpiry page s
  | .maxDurationExpiry page => Sys2Proof.Machine.execMaxDurationExpiry page s
  | .sampleProduce page => Sys2Proof.Machine.execSampleProduce page s
  | .blockFetchLands => Sys2Proof.Machine.execBlockFetchLands s
  | .noticePostingComplete => Sys2Proof.Machine.execNoticePostingComplete s
  | .holdoffExpiry => Sys2Proof.Machine.execHoldoffExpiry s
  | .frameStart => Sys2Proof.Machine.execFrameStart s
  | .micSample order bits => Sys2Proof.Machine.execMicSample order bits s
  | .blockComplete order => Sys2Proof.Machine.execBlockComplete order s
  | .resumeTimerExpiry zone => Sys2Proof.Machine.execResumeTimerExpiry zone s
  | .rampTimerExpiry zone => Sys2Proof.Machine.execRampTimerExpiry zone s

end Sys2Proof.Machine
end

