-- ==== Sys2Proof/Safety.lean ====
section
/-! DEFINITION. What counts as a sound state of the part: the standing facts the manual states about its lists, tables
and counters. A run is safe when every state of it is sound. -/

namespace Sys2Proof.Machine

/-! ### Invariants -/

/-- The array and the copies are in their canonical form. -/
def memoriesCanonical (s : State) : Prop := Memory.wf s.ptu.array = true ∧ Memory.wf s.ptu.copies = true

/-- One zone's output stage (R132, R135, R137, R138, R144): GMAX at most 96, GT and GA within 0..GMAX, at most 64 samples,
the ramp timer stopped exactly when GA is GT; a free zone has GA and GT 0 and an empty FIFO; under an EMERGENCY page that
is not letting it go GA and GT are GMAX. -/
structure ZoneSound (h : Option Holder) (x : ZosZone) : Prop where
  gmax : x.gain.gmax ≤ 96
  gt : x.gt ≤ x.gain.gmax
  ga : x.ga ≤ x.gain.gmax
  fifo : x.fifo.length ≤ Config.fifoDepth
  ramp : x.rampAt = none ↔ x.ga = x.gt
  free : h = none → x.ga = 0 ∧ x.gt = 0 ∧ x.fifo = []
  emergency : emergencyHeld h = true → x.ga = x.gain.gmax ∧ x.gt = x.gain.gmax

/-- Every zone's output stage is sound. -/
def zonesSound (s : State) : Prop := ∀ z : ZoneNo, ZoneSound (s.pctl.holders.get z) (s.zos.zones.get z)

/-- The measurement chains are in step: each has taken as many samples of its block as any other (R116, R119). -/
def chainsInStep (s : State) : Prop := ∀ y z : ZoneNo, (s.amon.get y).blockCount = (s.amon.get z).blockCount

/-- The Idle Order holds each IDLE line once, and no other line (R5). -/
def idleOrderSound (s : State) : Prop :=
  s.lmon.idleOrder.Nodup ∧ ∀ l : LineNo, l ∈ s.lmon.idleOrder ↔ (s.lmon.shadows.get l).state = .idle

/-- The notice unit's limits (R165, R168, R169): at most 32 queued notices, a drop count of at most 65535, a threshold of
at least 1. -/
def noticesSound (s : State) : Prop :=
  s.ntu.queue.length ≤ Config.noticeQueue ∧ s.ntu.drops ≤ 65535 ∧ 1 ≤ s.ntu.threshold

/-- The references that park slots hold, in slot order. -/
def parkedRefs (s : State) : List CallRef :=
  (List.finRange 16).filterMap fun n => (s.deng.parks.get n).map (·.ref)

/-- At most 128 call records are in use, and no reference is held twice by call records and park slots (R6, R60). -/
def referencesSound (s : State) : Prop :=
  s.deng.calls.length ≤ Config.callRecords ∧ (s.deng.calls.map (·.ref) ++ parkedRefs s).Nodup

/-- The interrupt output is asserted only in service and only while a record is outstanding (R170, R171). -/
def interruptSound (s : State) : Prop :=
  1 ≤ s.ntu.threshold ∧ (s.ntu.interrupt = true → s.ptu.mode = .ready ∧ 0 < outstanding s.ntu)

/-! ### What a command can reach -/

/-- The watched word that a write command names, its data and its byte enables. -/
def written : Instr → Option (Watched × Word × ByteEnables)
  | .lineStateWrite l d be => some (.lineState l, d, be)
  | .lineConfigWrite l d be => some (.lineConfig l, d, be)
  | .groupHeaderWrite g i d be => some (.header g i, d, be)
  | .memberWordWrite g i d be => some (.member g i, d, be)
  | .permissionWrite p i d be => some (.permission p i, d, be)
  | .controlWordWrite d be => some (.control, d, be)
  | .linkEnableWrite d be => some (.linkEnables, d, be)
  | .zoneRecordWrite z i d be => some (.zone z i, d, be)
  | .pageTargetWrite t d be => some (.target t, d, be)
  | .tonePatternWrite t i d be => some (toneWord t i, d, be)
  | .clipDirectoryWrite c i d be => some (.clip c i, d, be)
  | .liveBufferWrite k i d be => some (.live k i, d, be)
  | .consumerIndexWrite d be => some (.consumer, d, be)
  | .interruptWordWrite d be => some (.interruptWord, d, be)
  | .parameterWordWrite n i d be => some (.param n i, d, be)
  | .cmdWrite n d be => some (.cmd n, d, be)
  | _ => none

/-- A write by the processor: one of the 16 watched writes, or PLAIN_WRITE. -/
def isWrite : Instr → Bool
  | .plainWrite _ _ _ => true
  | c => (written c).isSome

/-- A command that may set the operating state. -/
def setsMode : Instr → Bool
  | .resetPinFall | .resetPinRelease _ | .scanBurstEnd | .restart => true
  | _ => false

/-- A command that starts an access of the processor's or ends a burst, and so may carry the accesses that wait. -/
def usesPort : Instr → Bool
  | .masterBurstStart read => read
  | .scanBurstEnd | .blockFetchLands | .noticePostingComplete | .restart | .resetPinFall => true
  | c => isWrite c

/-- A command that may store bytes in the array or in the copies, or change what the processor's words give the blocks. -/
def stores (c : Instr) : Bool := usesPort c || setsMode c

/-- Two states agree in everything the processor's words give the blocks: the line shadows and the Idle Order, the group
headers and member words, the permissions, the control word, the targets, the zone records, the patterns and the directory,
the link enables, the consumer index and the interrupt word. -/
structure SameInputs (s t : State) : Prop where
  lineState : ∀ l : LineNo, (t.lmon.shadows.get l).state = (s.lmon.shadows.get l).state
  pickup : ∀ l : LineNo, (t.lmon.shadows.get l).pickup = (s.lmon.shadows.get l).pickup
  directedAny : ∀ l : LineNo, (t.lmon.shadows.get l).directedAny = (s.lmon.shadows.get l).directedAny
  noPickupFrom : ∀ l : LineNo, (t.lmon.shadows.get l).noPickupFrom = (s.lmon.shadows.get l).noPickupFrom
  idleOrder : t.lmon.idleOrder = s.lmon.idleOrder
  config : ∀ g : GroupNo, (t.deng.groups.get g).config = (s.deng.groups.get g).config
  memberLine : ∀ (g : GroupNo) (i : MemberPos),
    ((t.deng.groups.get g).members.get i).line = ((s.deng.groups.get g).members.get i).line
  memberValid : ∀ (g : GroupNo) (i : MemberPos),
    ((t.deng.groups.get g).members.get i).valid = ((s.deng.groups.get g).members.get i).valid
  initialSignIn : ∀ (g : GroupNo) (i : MemberPos),
    ((t.deng.groups.get g).members.get i).initialSignIn = ((s.deng.groups.get g).members.get i).initialSignIn
  permissions : t.deng.permissions = s.deng.permissions
  confirmWindow : t.deng.confirmWindow = s.deng.confirmWindow
  parkTime : t.deng.parkTime = s.deng.parkTime
  targets : t.pctl.targets = s.pctl.targets
  enabled : t.pctl.enabled = s.pctl.enabled
  patterns : t.ctp.patterns = s.ctp.patterns
  directory : t.ctp.directory = s.ctp.directory
  noise : ∀ z : ZoneNo, (t.amon.get z).fields = (s.amon.get z).fields
  gain : ∀ z : ZoneNo, (t.zos.zones.get z).gain = (s.zos.zones.get z).gain
  linkEnable : t.zos.linkEnable = s.zos.linkEnable
  consumer : t.ntu.consumer = s.ntu.consumer
  threshold : t.ntu.threshold = s.ntu.threshold
  holdoff : t.ntu.holdoff = s.ntu.holdoff

/-- The next access is carried at once: the port is free, no access waits, and no hold applies (R178, R180). -/
structure PortFree (s : State) : Prop where
  burst : s.ptu.burst = none
  waiting : s.ptu.waiting = []
  noHold : holdCondition s = false ∨ s.ptu.holdMark = true

/-- Accesses wait only behind a burst on the port, and a hold has run its burst only for an access that waits (R178, R180). -/
def portSound (s : State) : Prop :=
  (s.ptu.waiting ≠ [] → s.ptu.burst ≠ none) ∧ (s.ptu.heldAccess = true → s.ptu.waiting ≠ [])

/-- A page's outstanding fetch is marked urgent (R102): fewer than 16 samples are left unproduced in the full buffers of its context. -/
def FetchUrgent (p : PageNo) (s : State) : Prop :=
  let left := fun b : Buffer => match b with
    | .full _ _ _ rest => rest.length
    | _ => 0
  s.ctp.fetches.get p ≠ none
    ∧ match (s.ctp.contexts.get p).playing with
      | .clip c => left c.bufA + left c.bufB < 16
      | _ => True

/-- A notice posting may start (R166): the part is READY, a notice is queued, and fewer than 255 records are outstanding. -/
def PostingMayStart (s : State) : Prop :=
  s.ptu.mode = .ready ∧ s.ntu.queue ≠ [] ∧ (s.ntu.producer - s.ntu.consumer).toNat < 255

/-- The hold condition is in force (R180): in service, a fetch marked urgent has bursts still to run, or a posting may start and the
oldest queued notice has waited more than 2 ms. -/
def HoldInForce (s : State) : Prop :=
  s.ptu.mode = .ready
    ∧ ((∃ p, FetchUrgent p s)
      ∨ PostingMayStart s ∧ ∃ q rest, s.ntu.queue = q :: rest ∧ 2 < (s.ptu.plantTime - q.stamp).toNat)

/-- A write to a watched word in service, before its owner acts: the array and the copy hold it (R173, R175). -/
def writeTaken (w : Watched) (data : Word) (be : ByteEnables) (s : State) : State :=
  mergeCopy w data be (arrayWrite (saAddress s.ptu.saBase (saOffset w)) data be (accessStart s))

/-- The slot the rotation gives is `n`, with a command code, and the part is READY (R159). -/
structure Served (code : Nat) (n : SlotNo) (s : State) : Prop where
  ready : s.ptu.mode = .ready
  next : nextPending s = some n
  code : (s.rqu.slots.get n).code.toNat = code

/-- The state in which a slot's command is handled: the pointer is at the slot (R159). -/
def pointed (n : SlotNo) (s : State) : State := { s with rqu := { s.rqu with pointer := n } }

/-- A group without a floor-ring target, which does not ring (R46). -/
structure FloorOff (g : GroupNo) (s : State) : Prop where
  target : (s.deng.groups.get g).config.floorTarget = none
  off : (s.deng.groups.get g).floorCondition = false

/-- A group's floor condition holds over some call records (R46): it has a floor-ring target, and a call of the group has its floor flag
set, or the queue alarm threshold is not 0 and the group's queue has reached it, or the group is NIGHT and has a call. -/
def FloorHolds (g : GroupNo) (calls : List CallRecord) (k : HuntGroup) : Prop :=
  k.config.floorTarget ≠ none
    ∧ ((∃ c ∈ calls, ∃ h, c.hunt = some h ∧ h.group = g ∧ h.floorFlag = true)
      ∨ (k.config.alarm ≠ 0 ∧ k.config.alarm ≤ (calls.filter fun c =>
          c.state = .queued && c.hunt.any fun h => h.group = g).length)
      ∨ (k.night = true ∧ ∃ c ∈ calls, ∃ h, c.hunt = some h ∧ h.group = g))

/-- No page record is in use, no zone is held, and no group waits for a record. -/
structure NoPages (s : State) : Prop where
  pages : ∀ p : PageNo, s.pctl.pages.get p = none
  order : s.pctl.pageOrder = []
  holders : ∀ z : ZoneNo, s.pctl.holders.get z = none
  waitList : s.pctl.waitList = []

/-- No posting is in flight. -/
def noPosting (s : State) : Prop := s.ptu.burst ≠ some .posting ∨ s.ntu.queue = []

/-- A pickup group that requester `r` reaches (R52, R53): its own or a permitted one, and never group 0. -/
def Reaches (r : LineNo) (q : PickupNo) (s : State) : Prop :=
  let p := (s.lmon.shadows.get r).pickup
  p ≠ 0 ∧ q ≠ 0 ∧ (q = p ∨ (s.deng.permissions.get p).getLsbD q.val = true)

/-- A call that GROUP_PICKUP by line `r` may take where it rings (R54). -/
def RingsInReach (r : LineNo) (c : CallRecord) (s : State) : Prop :=
  c.state = .ringing
    ∧ (∃ e ∈ c.ringing, e.line ≠ r ∧ (s.lmon.shadows.get e.line).noPickupFrom = false
      ∧ Reaches r (s.lmon.shadows.get e.line).pickup s)
    ∧ (∀ e ∈ c.ringing, e.line ≠ r) ∧ (s.lmon.shadows.get r).state ≠ .ringing c.ref
    ∧ (s.lmon.shadows.get r).reservation ≠ some c.ref ∧ (∀ h, c.hunt = some h → h.caller ≠ some r)

/-- A call that GROUP_PICKUP by line `r` may take from the queue it waits in (R55). -/
def QueuesInReach (r : LineNo) (c : CallRecord) (s : State) : Prop :=
  c.state = .queued ∧ ∃ h, c.hunt = some h ∧ h.caller ≠ some r ∧ Reaches r (s.deng.groups.get h.group).config.linkedPickup s

/-- The line a position makes an effective member of its group, if any (R23): the position is valid, and no lower valid position holds
the same line. -/
def memberAt (h : HuntGroup) (j : MemberPos) : Option LineNo :=
  if (h.members.get j).valid = true
      ∧ ∀ k < j, (h.members.get k).valid = true → (h.members.get k).line ≠ (h.members.get j).line then
    some (h.members.get j).line
  else none

/-- The result with which a page is refused: the first condition of steps 1 to 5 of R93 that applies (R93, R95). The source kinds
are 1 LIVE, 2 CLIP and 3 TONE (11.4). -/
def pageRefusal (target kind number preamble maxDuration waitLimit : Nat) (s : State) : Option ResultCode :=
  if 31 < target ∨ kind < 1 ∨ 3 < kind ∨ (kind = 1 ∧ 3 < number) ∨ (kind = 2 ∧ 63 < number)
      ∨ (kind = 3 ∧ (number = 0 ∨ 15 < number)) ∨ 15 < preamble ∨ 600 < maxDuration ∨ 60 < waitLimit then some .badParam
  else if kind = 2 ∧ (s.ctp.directory.get (Fin.ofNat 64 number)).blocks = 0 then some .badParam
  else if ∀ p : PageNo, (s.pctl.pages.get p).isSome = true then some .noPageSlot
  else if kind = 1 ∧ ∃ p : PageNo, (s.pctl.pages.get p).any (fun r => decide (r.source = .live (Fin.ofNat 4 number))) = true then
    some .sourceBusy
  else if ∀ z : ZoneNo, (s.pctl.targets.get (Fin.ofNat 32 target)).getLsbD z.val = true → s.pctl.enabled.get z = false then
    some .noZones
  else none

/-! ### Outcomes, spelled out -/

/-- A call is the only HUNT record in use, so that no arbitration has another call to give a line to. -/
def Alone (r : CallRef) (s : State) : Prop := ∀ d ∈ s.deng.calls, d.ref ≠ r → d.hunt = none

/-- WITHDRAW for each line of a call's ringing set in its order, then for each reservation in line-number order. -/
def withdrawals (why : WithdrawReason) (c : CallRecord) : List Notice :=
  (c.ringing.map fun e => .withdraw why c.ref e.line) ++ c.reservations.map fun x => .withdraw why c.ref x.line

/-- The reservations of the lines with those of some lines gone. -/
def unreserved (ls : List LineNo) (s : State) (k : LineNo) : Option CallRef :=
  if k ∈ ls then none else (s.lmon.shadows.get k).reservation

/-- The reservations of the lines with some lines reserved for a call. -/
def reserved (ls : List LineNo) (r : CallRef) (s : State) (k : LineNo) : Option CallRef :=
  if k ∈ ls then some r else (s.lmon.shadows.get k).reservation

/-- A state with the reservations, the call records and the groups given, some notices raised in order, and nothing else
changed. -/
def outcome (res : LineNo → Option CallRef) (calls : List CallRecord) (groups : Vector HuntGroup 64) (ns : List Notice)
    (s : State) : State :=
  { raiseAll ns s with
    lmon := { s.lmon with shadows := Vector.ofFn fun k => { s.lmon.shadows.get k with reservation := res k } }
    deng := { s.deng with calls := calls, groups := groups } }

/-- The call records with the one of a reference replaced. -/
def replaced (r : CallRef) (c : CallRecord) (s : State) : List CallRecord :=
  s.deng.calls.map fun d => if d.ref = r then c else d

/-- The state with a call freed for a reason (R9): its lines withdrawn, its reservations gone, its record out. -/
def freed (why : WithdrawReason) (c : CallRecord) (s : State) : State :=
  outcome (unreserved (c.reservations.map (·.line)) s) (s.deng.calls.filter (·.ref ≠ c.ref)) s.deng.groups
    (withdrawals why c) s

/-- A call was freed for a reason, whatever its freeing starts (R9): its record is gone; WITHDRAW for its ringing lines and then for
its reservations comes before every other notice; its lines are no longer reserved for it, and no other line's reservation changes;
and nothing that the processor's words give the blocks changes. -/
structure CallFreed (why : WithdrawReason) (c : CallRecord) (s t : State) : Prop where
  gone : findCall c.ref t = none
  withdrawn : (raiseAll (withdrawals why c) s).ntu.queue <+: t.ntu.queue
  dropped : (raiseAll (withdrawals why c) s).ntu.drops ≤ t.ntu.drops
  left : ∀ x ∈ c.reservations, (t.lmon.shadows.get x.line).reservation ≠ some c.ref
  others : ∀ l : LineNo, (∀ x ∈ c.reservations, x.line ≠ l) →
    (t.lmon.shadows.get l).reservation = (s.lmon.shadows.get l).reservation
  inputs : SameInputs s t
  ptu : t.ptu = s.ptu

/-- Freeing a call starts nothing else: no other call can take a line it lets go, and its group has no floor-ring target. -/
structure FreesAlone (c : CallRecord) (s : State) : Prop where
  lines : c.reservations = [] ∨ Alone c.ref s
  floor : ∀ h, c.hunt = some h → FloorOff h.group s

/-- A line that carries no reservation and stands in no ringing set is looked up under the reference it rings (R14, R30): a reference
that no record and no park holds makes a DIRECT record at the tail, or raises TRACK_FULL (TABLE) with 128 records in use; a parked one
does nothing; a call in use takes the line at the tail of its ringing set, without a mark, a QUEUED or OFFERED call becoming RINGING with
its no-answer timer started unless it runs or the ring time is 0, or raises TRACK_FULL (SET) with 32 ringing lines. A QUEUED call's
group has no floor-ring target. That a call RINGING already starts no timer is the model's choice (log entry 38). -/
def RingTaken (l : LineNo) (r : CallRef) (s t : State) : Prop :=
  (findCall r s = none →
    (parkedAs r s = none → t =
      if s.deng.calls.length < 128 then
        { s with deng := { s.deng with calls := s.deng.calls ++ [⟨r, .ringing, [⟨l, false⟩], [], none⟩] } }
      else raiseNotice (.trackFull .table r l) s)
    ∧ ((parkedAs r s).isSome = true → t = s))
  ∧ (∀ c, findCall r s = some c → (∀ d ∈ s.deng.calls, d.ref = r → d = c) → (∀ e ∈ c.ringing, e.line ≠ l) →
      (∀ h, c.hunt = some h → c.state = .queued → FloorOff h.group s) →
      let ringTime := fun h : HuntPart => (s.deng.groups.get h.group).config.ringTime
      let c1 : CallRecord := { c with
        state := .ringing, ringing := c.ringing ++ [⟨l, false⟩]
        hunt := c.hunt.map fun h => if c.state = .ringing ∨ h.noAnswerAt.isSome = true then h else { h with
          noAnswerAt := if ringTime h = 0 then none else some (s.ptu.clock + 1000 * ringTime h) } }
      t = if c.ringing.length < 32 then { s with deng := { s.deng with calls := replaced r c1 s } }
        else raiseNotice (.trackFull .set r l) s)

/-- A line that is neither ringing nor reserved for the call talks with a reference (R15, R34): a call that holds it is answered and
freed, the answering member's no-answer count 0, where its freeing starts nothing else; with no such call nothing happens. -/
def AnswerTaken (l : LineNo) (r : CallRef) (s t : State) : Prop :=
  (findCall r s = none → t = s)
  ∧ (∀ c, findCall r s = some c → (∀ d ∈ s.deng.calls, d.ref = r → d = c) → FreesAlone c s →
      (∀ e ∈ c.ringing, e.line ≠ l) → (∀ x ∈ c.reservations, x.line ≠ l) →
      t = outcome (unreserved (c.reservations.map (·.line)) s) (s.deng.calls.filter (·.ref ≠ r))
        (match c.hunt with
          | some h => match posOf (s.deng.groups.get h.group) l with
            | some i => (modMember h.group i (fun m => { m with noAnswers := 0 }) s).deng.groups
            | none => s.deng.groups
          | none => s.deng.groups)
        (.answered (c.hunt.map (·.group)) r l :: withdrawals .answeredElsewhere c) s)

/-- What a transition's new pair does once the line has left its offer or its ring (R11, steps 4 and 5): IDLE runs the arbitration for
the line, RINGING and TALKING look their reference up, BUSY and OUT_OF_SERVICE do nothing. -/
def PairTaken (l : LineNo) (x : LineState) (s t : State) : Prop :=
  match x with
  | .idle => t = arbitrate l s
  | .ringing r => RingTaken l r s t
  | .talking r => AnswerTaken l r s t
  | .busy | .outOfService => t = s

/-- A call that is distributed in a group can only queue there (R32, R37): NIGHT without an overflow target or DAY without an
eligible member, and room in the queue. -/
structure CanOnlyQueue (g : GroupNo) (s : State) : Prop where
  noOffer : if (s.deng.groups.get g).night = true then (s.deng.groups.get g).config.overflowTarget = none
    else ∀ i, eligibleAt g i s = false
  room : (queueOf g s).length < (s.deng.groups.get g).config.capacity

/-- A call that is distributed in a group is turned away there (R32, R37): NIGHT without an overflow target or DAY without an
eligible member, no overflow target, and no room in the queue. -/
structure TurnsAway (g : GroupNo) (s : State) : Prop where
  noOffer : (s.deng.groups.get g).night = false → ∀ i, eligibleAt g i s = false
  noTarget : (s.deng.groups.get g).config.overflowTarget = none
  full : (s.deng.groups.get g).config.capacity ≤ (queueOf g s).length

/-- A call that is distributed in a group overflows into another (R32, R37): NIGHT, or DAY without an eligible member and without
room in the queue. -/
structure Overflows (g target : GroupNo) (s : State) : Prop where
  target : (s.deng.groups.get g).config.overflowTarget = some target
  day : (s.deng.groups.get g).night = false →
    (∀ i, eligibleAt g i s = false) ∧ (s.deng.groups.get g).config.capacity ≤ (queueOf g s).length

/-- What an arrival at a group sets of a call's HUNT fields (R37, R45). -/
def arrived (g : GroupNo) (hops : Fin 5) (h : HuntPart) (s : State) : HuntPart :=
  let k := (s.deng.groups.get g).config
  { h with
    group := g, hops := hops, tried := [], floorFlag := k.floorDelay = 0, noAnswerAt := none
    overflowAt := if k.overflowTarget.isSome ∧ k.overflowWait ≠ 0 then some (s.ptu.clock + 1000 * k.overflowWait) else none
    floorAt := if k.floorDelay = 0 then none else some (s.ptu.clock + 1000 * k.floorDelay) }

/-- What an overflow of a call from its group into group `g` gives (R42, R43): WITHDRAW (OVERFLOW) for its ringing lines and its
reservations, OVERFLOW with one hop more, and its arrival at `g`, QUEUED where `g` cannot offer it and has room; with four hops made
it is deflected instead (R44). No group concerned has a floor-ring target, and no arbitration takes a line the call lets go. -/
def Overflown (c : CallRecord) (h : HuntPart) (g : GroupNo) (s t : State) : Prop :=
  FloorOff h.group s →
    (h.hops.val < 4 → (∀ d ∈ s.deng.calls, d.ref = c.ref → d = c) → FloorOff g s → CanOnlyQueue g s →
      c.state ≠ .queued ∨ h.group ≠ g →
      c.reservations = [] ∨ Alone c.ref s ∧ ((s.deng.groups.get g).night = true
        ∨ ∀ x ∈ c.reservations, posOf (s.deng.groups.get g) x.line = none) →
      let c1 : CallRecord := { c with
        state := .queued, ringing := [], reservations := [], hunt := some (arrived g (Fin.ofNat 5 (h.hops.val + 1)) h s) }
      let place := queuePosition c.ref g { s with deng := { s.deng with calls := replaced c.ref c1 s } }
      t = outcome (unreserved (c.reservations.map (·.line)) s) (replaced c.ref c1 s) s.deng.groups
        (withdrawals .overflow c ++ [.overflow h.group g (h.hops.val + 1) c.ref, .queued g place c.ref]) s)
    ∧ (h.hops = 4 → c.reservations = [] ∨ Alone c.ref s →
      t = outcome (unreserved (c.reservations.map (·.line)) s) (s.deng.calls.filter (·.ref ≠ c.ref)) s.deng.groups
        (withdrawals .deflected c ++ [.deflect h.group 4 .hops c.ref]) s)

/-- What a re-hunt of a call without ringing lines and reservations gives (R32), its group having no floor-ring target; its no-answer
timer stops. DAY with a selection: the call is OFFERED to the positions selected, as R29 says, and its tried set is cleared when the selection cleared it
(R27). With nothing to offer and room, it is QUEUED (R38). With neither room nor a target it is deflected (R44). Otherwise it
overflows. -/
def Rehunted (c : CallRecord) (h : HuntPart) (s t : State) : Prop :=
  let g := s.deng.groups.get h.group
  FloorOff h.group s →
    (∀ (i : MemberPos) (more : List MemberPos) (clear : Bool), g.night = false →
      select [] h.group h.tried s = (i :: more, clear) →
      let lines := (i :: more).map fun j => (g.members.get j).line
      t = outcome (reserved lines c.ref s)
        (replaced c.ref { c with
          state := .offered
          reservations := ((List.finRange 1024).filter (· ∈ lines)).map fun l => ⟨l, s.ptu.clock + s.deng.confirmWindow⟩
          hunt := some { h with tried := if clear = true then [] else h.tried, noAnswerAt := none } } s)
        (if g.config.mode = .circular then putAt s.deng.groups h.group { g with huntPointer := i } else s.deng.groups)
        (lines.map fun l => .offer h.group c.ref l) s)
    ∧ (CanOnlyQueue h.group s →
      let calls := replaced c.ref { c with state := .queued, hunt := some { h with noAnswerAt := none } } s
      let place := queuePosition c.ref h.group { s with deng := { s.deng with calls := calls } }
      t = outcome (unreserved [] s) calls s.deng.groups [.queued h.group place c.ref] s)
    ∧ (TurnsAway h.group s →
      t = outcome (unreserved [] s) (s.deng.calls.filter (·.ref ≠ c.ref)) s.deng.groups
        [.deflect h.group h.hops.val .noTarget c.ref] s)
    ∧ (∀ x : GroupNo, Overflows h.group x s → Overflown c h x s t)

/-! ### Zones, spelled out -/

/-- The target gain of a zone with a holder (R135), from its microphone flag, window state, noise level, quiet reference and gain
fields. -/
def soughtGain (h : Option Holder) (a : AmonZone) (g : GainFields) : Nat :=
  match h with
  | none => 0
  | some h =>
    let base : Int :=
      if a.fields.mic = false ∨ a.window = .micSilent then g.gdef
      else if h.priority = .background then g.gb
      else g.gb + (max 0 ((a.ne / 16 : Nat) - (a.fields.quiet : Int)) * g.slope) / 8
    if h.lettingGo = true then 0 else if h.priority = .emergency then g.gmax
    else (max 0 (min (base + h.trim) (g.gmax : Int))).toNat

/-- A zone's ramp timer after a change of GT or GA (R138): stopped when they are equal; else a running timer keeps its expiry, and
a stopped one starts with the zone's RAMP. -/
def rampTo (gt ga : Nat) (x : ZosZone) (s : State) : Option Nat :=
  if ga = gt then none else some (x.rampAt.getD (s.ptu.clock + x.gain.ramp))

/-- A zone's output stage under a holder, from its stage before (R135, R137 to R139): GA is kept but under an EMERGENCY page that is
not letting it go, for which it is GMAX. -/
def heldStage (h : Holder) (a : AmonZone) (x : ZosZone) (s : State) : ZosZone :=
  let gt := soughtGain (some h) a x.gain
  let ga := if h.priority = .emergency ∧ h.lettingGo = false then x.gain.gmax else x.ga
  { x with gt := gt, ga := ga, rampAt := rampTo gt ga x s }

/-- A zone was taken by a page (R79, R114, R124, R135, R137 to R139, R145): its FIFO is empty and its overrun mark clear, its gains are
those of the new holder, and a page of NORMAL or above freezes its noise estimate. -/
structure ZoneTaken (z : ZoneNo) (h : Holder) (s t : State) : Prop where
  stage : t.zos.zones.get z = { heldStage h (s.amon.get z) (s.zos.zones.get z) s with fifo := [] }
  overrun : t.ctp.overrun.get z = false
  noise : t.amon.get z =
    if h.priority = .background then s.amon.get z else { s.amon.get z with freeze := .held, tainted := true }

/-- A zone's measurement context once the zone is freed (R124): from a page of NORMAL or above its resume timer starts, and with
RESUME 0 the freeze ends; from a BACKGROUND page nothing changes. -/
def thawed (h : Holder) (a : AmonZone) (s : State) : AmonZone :=
  if h.priority = .background then a
  else { a with freeze := if a.fields.resume = 0 then .off else .resuming (s.ptu.clock + 10 * a.fields.resume) }

/-- The state with a zone freed from its holder (R83, R114, R124, R139, R145): its entry free, its gains 0, its ramp timer stopped,
its FIFO empty and its overrun mark clear. -/
def zoneLeft (z : ZoneNo) (h : Holder) (s : State) : State :=
  let x := { s.zos.zones.get z with ga := 0, gt := 0, rampAt := none, fifo := [] }
  { s with
    pctl := { s.pctl with holders := putAt s.pctl.holders z none }
    ctp := { s.ctp with overrun := putAt s.ctp.overrun z false }
    amon := putAt s.amon z (thawed h (s.amon.get z) s)
    zos := { s.zos with zones := putAt s.zos.zones z x } }

/-- A zone's measurement block completes and is applied (R123, R131): it has its 1000 samples, no part of it fell inside a freeze, and
the part is READY. -/
def BlockApplies (a : AmonZone) (s : State) : Prop :=
  1000 ≤ a.blockCount ∧ a.tainted = false ∧ a.freeze = .off ∧ s.ptu.mode = .ready

/-- A zone's measurement context after an applied block (R119, R120, R123, R125 to R128): NE moved toward 16 times the level code by
at most RISE or FALL, then the silence count, then the window state by the first line of R125's table; the next block is empty. -/
def afterBlock (a : AmonZone) : AmonZone :=
  let k := a.fields
  let lc := levelCode (a.blockSum / 1000)
  let ne := if a.ne < 16 * lc then a.ne + min (16 * lc - a.ne) k.rise else a.ne - min (a.ne - 16 * lc) k.fall
  let silence := if k.mic = false ∨ k.silTime = 0 then 0 else if k.silLevel < lc then 0
    else if a.silence < 2040 then a.silence + 1 else 2040
  { a with
    ne := ne, silence := silence, blockSum := 0, blockCount := 0, tainted := false
    window :=
      if k.mic = false then .normal
      else if k.silTime ≠ 0 ∧ a.window = .micSilent ∧ lc ≤ k.silLevel then .micSilent
      else if k.silTime ≠ 0 ∧ 8 * k.silTime ≤ silence then .micSilent
      else if k.high ≤ k.low then .normal
      else if a.window = .loud then (if ne / 16 < k.low then .normal else .loud)
      else if k.high < ne / 16 then .loud else .normal }

/-- A zone's output stage after its noise context went from `a` to `b` in an applied block (R129, R136): unchanged with NL and window
state unchanged; else GT is computed again, and GA follows only under an EMERGENCY page. -/
structure Reheard (h : Option Holder) (a b : AmonZone) (x y : ZosZone) (s : State) : Prop where
  same : b.ne / 16 = a.ne / 16 → b.window = a.window → y = x
  gt : b.ne / 16 ≠ a.ne / 16 ∨ b.window ≠ a.window → y.gt = soughtGain h b x.gain
  ga : emergencyHeld h = false → y.ga = x.ga
  kept : y.fifo = x.fifo ∧ y.gain = x.gain
  timer : b.ne / 16 ≠ a.ne / 16 ∧ b.window = a.window ∨ b.ne / 16 = a.ne / 16 ∧ b.window ≠ a.window →
    y.rampAt = rampTo y.gt y.ga x s

/-! ### Pages, spelled out -/

/-- A page has a preamble to play: a pattern other than 0 that is not empty (R87, R107). -/
def hasPreamble (r : PageRec) (s : State) : Bool :=
  r.preamble ≠ 0 && ((s.ctp.patterns.get r.preamble).steps.get 0).duration ≠ 0

/-- A page's record once it leaves PENDING, and the state it enters (R87 to R89): PREAMBLE, or ACTIVE with its maximum duration
running. -/
def begun (r : PageRec) (s : State) : PageRec × PageNoticeState :=
  if hasPreamble r s = true then ({ r with state := .preamble, waitAt := none }, .preamble)
  else ({ r with
    state := .active, wasActive := true, waitAt := none
    maxAt := if r.maxDuration = 0 then none else some (s.ptu.clock + 1000 * r.maxDuration) }, .active)

/-- A tone context at the start of a pattern that is not empty (R108, R110). -/
def toneStart (use : ToneUse) (t : PatternNo) (s : State) : ToneCtx :=
  let step := (s.ctp.patterns.get t).steps.get 0
  { use := use, pattern := t, step := 0, current := step, left := 80 * step.duration, phase := 0, passes := 0, silent := false }

/-- What a page's context plays once the page leaves PENDING (R88, R89, R102, R110, R114): its preamble, or its source from the
beginning; a clip's block 0 is asked for where no fetch of the page's number is outstanding. -/
def Begins (p : PageNo) (r : PageRec) (s t : State) : Prop :=
  if hasPreamble r s = true then (t.ctp.contexts.get p).playing = .tone (toneStart .preamble r.preamble s)
  else match r.source with
    | .live k => (t.ctp.contexts.get p).playing = .live k
    | .tone u => (t.ctp.contexts.get p).playing =
        .tone (toneStart (match r.origin with | .group _ => .floorRing | _ => .source) u s)
    | .clip c => s.ctp.fetches.get p = none →
        t.ctp.fetches.get p = some ⟨false, 0, (t.ctp.contexts.get p).entry.addr, 0, [], false⟩
          ∧ (t.ctp.contexts.get p).playing = .clip
            { clip := c, passes := 0, nextBlock := 0, toFetch := true, gapLeft := 0, bufA := .awaiting 0, bufB := .empty
              playingB := false, landed := false, underrun := false }

/-- A page's context may produce its next sample (R111): the page holds a zone on an enabled link and every such zone has room, or
it holds none and this frame's sample has not been produced. -/
def Paced (p : PageNo) (s : State) : Prop :=
  let fed := fun z : ZoneNo => (∃ h, s.pctl.holders.get z = some h ∧ h.page = p) ∧ s.zos.linkNow.getLsbD (z.val / 8) = true
  if ∃ z, fed z then ∀ z, fed z → (s.zos.zones.get z).fifo.length < 64 else (s.ctp.contexts.get p).frameDue = true

/-- A sample goes into the FIFO of every zone a page holds that has room, and what the page's context plays becomes `x` (R111). -/
def Delivered (p : PageNo) (sample : Sample) (x : Playing) (s t : State) : Prop :=
  t = { s with
      ctp := { s.ctp with contexts := putAt s.ctp.contexts p { s.ctp.contexts.get p with frameDue := false, playing := x } }
      zos := { s.zos with zones := t.zos.zones } }
    ∧ ∀ z : ZoneNo, t.zos.zones.get z =
        if z ∈ heldZones p s ∧ (s.zos.zones.get z).fifo.length < 64 then
          { s.zos.zones.get z with fifo := (s.zos.zones.get z).fifo ++ [sample] }
        else s.zos.zones.get z

/-- The park slots once the own end of a page has been reported to DENG (R65). -/
def linkCleared (p : PageNo) (r : PageRec) (c : EndCause) (s : State) : Vector (Option Park) 16 :=
  match r.origin, c with
  | .request, _ | .group _, _ | .park _, .linked => s.deng.parks
  | .park k, _ => putAt s.deng.parks k ((s.deng.parks.get k).map fun x =>
      if x.page = some p then { x with page := none } else x)

/-- A page record taken out (R91): out of the Page Order, its context idle and its fetch left to be discarded, PAGE_STATE (ENDED) with
the cause. -/
def recordFreed (p : PageNo) (r : PageRec) (cause : Option EndCause) (s : State) : State :=
  { raiseNotice (.pageState p .ended cause r.origin r.priority) s with
    pctl := { s.pctl with pages := putAt s.pctl.pages p none, pageOrder := s.pctl.pageOrder.erase p }
    ctp := { s.ctp with
      contexts := putAt s.ctp.contexts p { s.ctp.contexts.get p with playing := .idle, frameDue := false }
      fetches := putAt s.ctp.fetches p ((s.ctp.fetches.get p).map fun f => { f with stale := true }) } }

/-- A page that ends holding no zone (R90, R91): its record is taken out, and the link of a park's page cleared for its own end
(R65). -/
def pageFreed (p : PageNo) (r : PageRec) (cause : EndCause) (s : State) : State :=
  { recordFreed p r (some cause) s with deng := { s.deng with parks := linkCleared p r cause s } }

/-- A page that holds zones at a gain above 0 and is alone in the Page Order, before it takes an end cause. -/
structure EndsHolding (p : PageNo) (r : PageRec) (s : State) : Prop where
  page : s.pctl.pages.get p = some r
  unended : r.endCause = none
  holds : heldZones p s ≠ []
  audible : ∀ z ∈ heldZones p s, (s.zos.zones.get z).ga ≠ 0
  only : s.pctl.pageOrder = [p]

/-- A page that holds zones took an end cause (R84, R90): it is RELEASING, its wanted set empty and its timers stopped, every zone
it holds is being let go with target gain 0, its gain and samples kept and its ramp timer brought up to date, and no other zone changes;
the own end of a park's page clears the slot's link (R65); PAGE_STATE (RELEASING) carries the cause. -/
structure Released (p : PageNo) (r : PageRec) (cause : EndCause) (s t : State) : Prop where
  pctl : t.pctl = { s.pctl with
    pages := putAt s.pctl.pages p (some { r with
      state := .releasing, endCause := some cause, wanted := [], waitAt := none, maxAt := none })
    holders := Vector.ofFn fun z => (s.pctl.holders.get z).map fun h =>
      if h.page = p then { h with lettingGo := true } else h }
  held : ∀ z h, s.pctl.holders.get z = some h → h.page = p →
    t.zos.zones.get z = heldStage { h with lettingGo := true } (s.amon.get z) (s.zos.zones.get z) s
  others : ∀ z : ZoneNo, z ∉ heldZones p s → t.zos.zones.get z = s.zos.zones.get z
  links : t.zos.slotOut = s.zos.slotOut ∧ t.zos.linkNow = s.zos.linkNow
  inputs : SameInputs s t
  deng : t.deng = { s.deng with parks := linkCleared p r cause s }
  rest : t.pending = s.pending ∧ t.ptu = s.ptu ∧ t.lmon = s.lmon ∧ t.ctp = s.ctp ∧ t.amon = s.amon ∧ t.rqu = s.rqu
  ntu : t.ntu = (raiseNotice (.pageState p .releasing (some cause) r.origin r.priority) s).ntu

/-- No page in use can take a zone, and every zone's holder is a page in use that is not RELEASING (R82). -/
structure Settled (s : State) : Prop where
  takes : ∀ p r, s.pctl.pages.get p = some r → zonesToTake r s = []
  live : ∀ p r, s.pctl.pages.get p = some r → r.state ≠ .releasing
  holders : ∀ z h, s.pctl.holders.get z = some h → (s.pctl.pages.get h.page).isSome = true
  order : ∀ p, p ∈ s.pctl.pageOrder → (s.pctl.pages.get p).isSome = true

end Sys2Proof.Machine
end

