-- ==== Sys2Proof/WellFormed.lean ====
section
/-! DEFINITION. Which commands are well formed. Most operands are in range by their types; what is left is that a
tone pattern word belongs to a pattern 1..15 and that a timer event names a call reference 1..65535. -/

namespace Sys2Proof

/-- A command names something the part has (00_scope.md, "Numbering"): pattern 0 means none and reference 0 means no call. -/
def Instr.wellFormed : Instr → Bool
  | .resetPinFall => true
  | .resetPinRelease _ => true
  | .plantTimeTick => true
  | .plainWrite _ _ _ => true
  | .masterBurstStart _ => true
  | .scanBurstEnd => true
  | .linePresentation => true
  | .lineStateWrite _ _ _ => true
  | .lineConfigWrite _ _ _ => true
  | .groupHeaderWrite _ _ _ _ => true
  | .memberWordWrite _ _ _ _ => true
  | .permissionWrite _ _ _ _ => true
  | .controlWordWrite _ _ => true
  | .linkEnableWrite _ _ => true
  | .zoneRecordWrite _ _ _ _ => true
  | .pageTargetWrite _ _ _ => true
  | .tonePatternWrite t _ _ _ => t != 0
  | .clipDirectoryWrite _ _ _ _ => true
  | .liveBufferWrite _ _ _ _ => true
  | .consumerIndexWrite _ _ => true
  | .interruptWordWrite _ _ => true
  | .parameterWordWrite _ _ _ _ => true
  | .cmdWrite _ _ _ => true
  | .hunt => true
  | .cancel => true
  | .signIn => true
  | .signOut => true
  | .setNight => true
  | .setDay => true
  | .groupPickup => true
  | .directedPickup => true
  | .park => true
  | .retrieve => true
  | .pageStart => true
  | .pageEnd => true
  | .restart => true
  | .unknownCommand => true
  | .confirmTimerExpiry _ => true
  | .noAnswerTimerExpiry r => r != 0
  | .overflowWaitExpiry r => r != 0
  | .floorDelayExpiry r => r != 0
  | .parkTimerExpiry _ => true
  | .waitLimitExpiry _ => true
  | .maxDurationExpiry _ => true
  | .sampleProduce _ => true
  | .blockFetchLands => true
  | .noticePostingComplete => true
  | .holdoffExpiry => true
  | .frameStart => true
  | .micSample _ _ => true
  | .blockComplete _ => true
  | .resumeTimerExpiry _ => true
  | .rampTimerExpiry _ => true

end Sys2Proof
end

