-- ==== Sys2Proof/Certificates/Slice0/Obligations.lean ====
section
/-! DEFINITION. The statements about the EH6420, for the provers. Each docstring names the rules of spec/ that the statement
formalises, and says where a clause is the model's own choice. -/

open Sys2Proof Sys2Proof.Machine

/-! ### The queue, reset and the standing facts -/

/-- A step carries out the command at the front of the queue, on the state with the queue's rest. The queue of commands, first in
first out, is the model's own (log entry 4). -/
def Obligations.StepTakesFront : Prop :=
  ∀ (c : Instr) (rest : List Instr) (s : State), s.pending = c :: rest → step s = exec c { s with pending := rest }

/-- The values the manual gives for power-on: the operating state, plant time and the arbiter (R177, R179, R180, R181), LMON (R1,
R5), DENG with the whole of a group shadow (R6, R7, R28, R29, R51, R53, R60, R61), PCTL (R99), the CTP with contexts, overrun
marks, patterns and directory (R115), AMON's whole measurement context and fields (R130), ZOS (R152), the RQU (R162) and the NTU
(R171). The initial night flag is clear, which is the model's choice (log entry 3). The state after reset meets every invariant of
Safety.lean. -/
def Obligations.ResetValues : Prop :=
  let s := State.reset
  (s.ptu.mode = .resetLow ∧ s.ptu.plantTime = 0 ∧ s.ptu.restartCount = 0 ∧ s.ptu.burst = none ∧ s.ptu.holdMark = false
    ∧ s.ptu.fetchPointer = 15)
  ∧ ((∀ l : LineNo, s.lmon.shadows.get l = ⟨.busy, 0, false, false, none⟩) ∧ s.lmon.idleOrder = [])
  ∧ (s.deng.calls = []
    ∧ (∀ g : GroupNo, (s.deng.groups.get g).night = false ∧ (s.deng.groups.get g).huntPointer = 31
      ∧ (s.deng.groups.get g).config = {
          mode := .linear, capacity := 0, ringTime := 0, overflowTarget := none, overflowWait := 0
          floorTarget := none, floorDelay := 0, floorPriority := .background, ringPattern := 0, alarm := 0, autoSignOut := 0
          linkedPickup := 0, initialNight := false }
      ∧ ∀ i : MemberPos, ((s.deng.groups.get g).members.get i).valid = false
        ∧ ((s.deng.groups.get g).members.get i).signedIn = false
        ∧ ((s.deng.groups.get g).members.get i).noAnswers = 0)
    ∧ (∀ p : PickupNo, s.deng.permissions.get p = 0) ∧ (∀ n : ParkNo, s.deng.parks.get n = none)
    ∧ s.deng.confirmWindow = 2000 ∧ s.deng.parkTime = 10)
  ∧ (NoPages s ∧ (∀ t : TargetNo, s.pctl.targets.get t = 0) ∧ ∀ z : ZoneNo, s.pctl.enabled.get z = false)
  ∧ ((∀ p : PageNo, (s.ctp.contexts.get p).playing = .idle ∧ s.ctp.fetches.get p = none)
    ∧ (∀ z : ZoneNo, s.ctp.overrun.get z = false)
    ∧ (∀ t : PatternNo, ((s.ctp.patterns.get t).steps.get 0).duration = 0 ∧ (s.ctp.patterns.get t).repeats = 0)
    ∧ ∀ c : ClipNo, s.ctp.directory.get c = ⟨0, 0, 0, 0⟩)
  ∧ (∀ z : ZoneNo,
      (s.amon.get z).fields = {
        mic := false, adapt := 0, rise := 1, fall := 1, quiet := 0, high := 0, low := 0, silLevel := 0
        silTime := 0, resume := 0 }
      ∧ (∀ v ∈ (s.amon.get z).decimator.bits ++ (s.amon.get z).decimator.first ++ (s.amon.get z).decimator.second, v = 0)
      ∧ (s.amon.get z).dc = 0 ∧ (s.amon.get z).blockSum = 0 ∧ (s.amon.get z).blockCount = 0 ∧ (s.amon.get z).ne = 0
      ∧ (s.amon.get z).window = .normal ∧ (s.amon.get z).silence = 0 ∧ (s.amon.get z).freeze = .off)
  ∧ ((∀ z : ZoneNo, s.zos.zones.get z = ⟨⟨0, 0, 0, 0, 1⟩, 0, 0, none, []⟩) ∧ s.zos.linkEnable = 0)
  ∧ ((∀ n : SlotNo, (s.rqu.slots.get n).state = .idle ∧ (s.rqu.slots.get n).code = 0 ∧ (s.rqu.slots.get n).tag = 0
      ∧ (s.rqu.slots.get n).noted = none) ∧ s.rqu.pointer = 15)
  ∧ (s.ntu.queue = [] ∧ s.ntu.drops = 0 ∧ s.ntu.producer = 0 ∧ s.ntu.consumer = 0 ∧ s.ntu.threshold = 1
    ∧ s.ntu.holdoff = 0 ∧ s.ntu.interrupt = false)
  ∧ (memoriesCanonical s ∧ zonesSound s ∧ idleOrderSound s ∧ noticesSound s ∧ referencesSound s ∧ interruptSound s ∧ portSound s
    ∧ chainsInStep s)

/-- Every step keeps the canonical form of the array and of the copies, and the port's queue in order: an access waits only behind
a burst on the port, and a hold has run only for an access that waits (R178, R180). The canonical form is the model's own
representation (log entry 1), and so is the queue of waiting accesses (log entry 9). -/
def Obligations.MemoriesKept : Prop :=
  ∀ s t : State, step s = .next t → (memoriesCanonical s → memoriesCanonical t) ∧ (portSound s → portSound t)

/-- Every step keeps every zone's output stage sound (R132, R135, R137, R138, R144, R152), and the 24 measurement chains in step: each
has taken as many samples of its block as any other (R116, R119). -/
def Obligations.ZonesKept : Prop :=
  ∀ s t : State, step s = .next t → (zonesSound s → zonesSound t) ∧ (chainsInStep s → chainsInStep t)

/-- Every step keeps the Idle Order, each IDLE line once and no other line (R5), and at most 128 call records with no reference
held twice by call records and park slots (R6, R60). -/
def Obligations.TablesKept : Prop :=
  ∀ s t : State, step s = .next t → (idleOrderSound s → idleOrderSound t) ∧ (referencesSound s → referencesSound t)

/-- Every step keeps the notice unit within its limits (R165, R168, R169), and the interrupt output asserted only in service and
only while a record is outstanding (R170, R171). -/
def Obligations.NoticeUnitKept : Prop :=
  ∀ s t : State, step s = .next t → (noticesSound s → noticesSound t) ∧ (interruptSound s → interruptSound t)

/-- Which commands change the operating state, and from what to what: the release of the reset pin, the end of the scan, RESTART
and the fall of the reset pin (R181, R184, R185). -/
def Obligations.OperatingStateChanges : Prop :=
  ∀ (c : Instr) (s t : State), exec c s = .next t → t.ptu.mode ≠ s.ptu.mode →
    (∃ straps, c = .resetPinRelease straps ∧ s.ptu.mode = .resetLow ∧ t.ptu.mode = .scanning)
      ∨ (c = .scanBurstEnd ∧ s.ptu.mode = .scanning ∧ t.ptu.mode = .ready)
      ∨ (c = .restart ∧ s.ptu.mode = .ready ∧ t.ptu.mode = .scanning)
      ∨ (c = .resetPinFall ∧ t.ptu.mode = .resetLow)

/-- A command that is no write of the processor's and sets no operating state leaves everything the processor's words give the
blocks as it was, when no access waits for the port: line shadows, Idle Order, headers, members, permissions, targets, zone
records, patterns, directory, link enables, consumer index, interrupt word. -/
def Obligations.InputsKept : Prop :=
  ∀ (c : Instr) (s t : State), isWrite c = false → setsMode c = false → s.ptu.waiting = [] → exec c s = .next t →
    SameInputs s t

/-- A write command that takes the port at once stores its enabled bytes at its word of the array and no other byte, in every
operating state (R173); its word's copy takes the same bytes in service, and during SCANNING when the scan has read the word, and
no other copy byte changes; a live buffer has no copy (R175, R183). That the SA_BASE kept from before its fall places the word while
the reset pin is low is the model's choice (log entry 2). -/
def Obligations.WritesStored : Prop :=
  ∀ (c : Instr) (s : State) (w : Watched) (d : Word) (be : ByteEnables),
    c.wellFormed = true → written c = some (w, d, be) → memoriesCanonical s → PortFree s →
    ∃ t, exec c s = .next t
      ∧ (∀ a : Nat, memByte t.ptu.array a =
          let base := 4 * (saAddress s.ptu.saBase (saOffset w)).toNat
          if base ≤ a ∧ a < base + 4 ∧ be.getLsbD (a - base) = true then d.extractLsb' (8 * (a - base)) 8
          else memByte s.ptu.array a)
      ∧ (∀ a : Nat, memByte t.ptu.copies a =
          let base := 4 * saOffset w
          if (s.ptu.mode = .ready ∨ (s.ptu.mode = .scanning ∧ isRead w s = true)) ∧ (∀ k i, w ≠ .live k i)
            ∧ base ≤ a ∧ a < base + 4 ∧ be.getLsbD (a - base) = true
          then d.extractLsb' (8 * (a - base)) 8
          else memByte s.ptu.copies a)

/-- The map of the Service Area (11.1): each watched word of the map stands at its own offset, an offset names at most the word
that stands there, and no offset is both watched and answered. The scan reads each watched word of the map but the live buffers in
exactly one of its 670 bursts, and a word counts as read when that burst has ended (R182, R183). How the 15 repeat words are split
over their two bursts is the model's choice (log entry 34). -/
def Obligations.MapRoundTrip : Prop :=
  (∀ w : Watched, inMap w = true → watchedAt (saOffset w) = some w)
    ∧ (∀ (o : Nat) (w : Watched), watchedAt o = some w → saOffset w = o ∧ inMap w = true ∧ o < 0x2200)
    ∧ (∀ (o : Nat) (w : Watched), watchedAt o = some w → answeredAt o = none)
    ∧ (∀ k : Nat, (scanBurstAt k).isSome = true ↔ k < 670)
    ∧ (∀ (w : Watched) (k : Nat), inMap w = true →
        (burstOf w = some k ↔ ∃ b, scanBurstAt k = some b ∧ w ∈ burstWords b))
    ∧ (∀ w : Watched, inMap w = true → (burstOf w = none ↔ ∃ k i, w = .live k i))
    ∧ (∀ (w : Watched) (s : State), inMap w = true →
        (isRead w s = true ↔ ∃ k < s.ptu.scanned, ∃ b, scanBurstAt k = some b ∧ w ∈ burstWords b))

/-- Every bit field of the words that are decoded and of the records that are posted. The line state word with its faults (R2); the
group header as it acts, with its faults (R21); the zone record's fields of AMON (R121) and of ZOS (R132), with their faults; a
tone step (R107); the words of each kind of notice record (R163, R164, 11.6), for group positions, hop counts, NL and level codes
that fit their fields. The order of the faults of one decode is the model's choice (log entries 34 and 35). -/
def Obligations.FieldDecodes : Prop :=
  let f := fun (w : Word) (lo len : Nat) => (w.extractLsb' lo len).toNat
  let faults := fun l : List (Bool × FaultField) => (l.filter (·.1)).map (·.2)
  (∀ w : Word, decodeLineState w =
    let c := f w 0 8
    let r : CallRef := w.extractLsb' 16 16
    if c = 0 then (.idle, []) else if c = 1 then (.busy, []) else if c = 4 then (.outOfService, [])
    else if 4 < c then (.busy, [.code]) else if r = 0 then (.busy, [.reference])
    else if c = 2 then (.ringing r, []) else (.talking r, []))
  ∧ (∀ w0 w1 w2 w3 : Word,
    decodeHeader w0 w1 w2 w3 =
      {
        mode := if f w0 0 2 = 0 then .linear else if f w0 0 2 = 1 then .circular else if f w0 0 2 = 2 then .longestIdle
          else .allRing
        initialNight := w0.getLsbD 4
        capacity := if 16 < f w0 8 5 then 16 else f w0 8 5
        alarm := if 16 < f w0 16 5 then 16 else f w0 16 5
        autoSignOut := if 7 < f w0 24 4 then 7 else f w0 24 4
        ringTime := if f w1 0 8 = 0 then 0 else if f w1 0 8 < 5 then 5 else if 120 < f w1 0 8 then 120 else f w1 0 8
        overflowWait := if 600 < f w1 16 10 then 600 else f w1 16 10
        overflowTarget := if w2.getLsbD 7 = true then some ⟨f w2 0 6, (w2.extractLsb' 0 6).isLt⟩ else none
        floorTarget := if w2.getLsbD 15 = true then some ⟨f w2 8 5, (w2.extractLsb' 8 5).isLt⟩ else none
        floorDelay := f w2 16 8
        floorPriority := if f w2 24 2 = 0 then .background else if f w2 24 2 = 1 then .normal else .urgent
        ringPattern := ⟨f w2 28 4, (w2.extractLsb' 28 4).isLt⟩
        linkedPickup := ⟨f w3 0 6, (w3.extractLsb' 0 6).isLt⟩ }
    ∧ headerFaults w0 w1 w2 = faults [(16 < f w0 8 5, .capacity),
        ((1 ≤ f w1 0 8 ∧ f w1 0 8 ≤ 4) ∨ 120 < f w1 0 8, .ringTime), (600 < f w1 16 10, .overflowWait),
        (f w2 24 2 = 3, .floorPriority), (16 < f w0 16 5, .threshold), (7 < f w0 24 4, .autoSignOut)])
  ∧ (∀ w0 w2 w3 : Word,
    let high := if 120 < f w2 8 8 then 120 else f w2 8 8
    let low := if 120 < f w2 16 8 then 120 else f w2 16 8
    decodeAmon w0 w2 w3 =
      { mic := w0.getLsbD 1, adapt := f w0 4 4, rise := if f w3 0 8 = 0 then 1 else f w3 0 8
        fall := if f w3 8 8 = 0 then 1 else f w3 8 8, quiet := if 120 < f w2 0 8 then 120 else f w2 0 8
        high := high, low := low, silLevel := if 120 < f w2 24 8 then 120 else f w2 24 8, silTime := f w3 16 8
        resume := if 200 < f w3 24 8 then 200 else f w3 24 8 }
    ∧ amonFaults w2 w3 = faults [(f w3 0 8 = 0, .rise), (f w3 8 8 = 0, .fall), (120 < f w2 0 8, .q),
        (120 < f w2 8 8, .high), (120 < f w2 16 8, .low), (120 < f w2 24 8, .silLevel), (200 < f w3 24 8, .resume),
        (high ≤ low, .window)])
  ∧ (∀ w0 w1 : Word,
    let gmax := if 96 < f w1 0 7 then 96 else f w1 0 7
    decodeGain w0 w1 =
      { gmax := gmax, gb := if gmax < f w1 8 7 then gmax else f w1 8 7, gdef := if gmax < f w1 16 7 then gmax else f w1 16 7
        slope := if 16 < f w0 16 5 then 16 else f w0 16 5
        ramp := if f w0 8 5 = 0 then 1 else if 16 < f w0 8 5 then 16 else f w0 8 5 }
    ∧ gainFaults w0 w1 = faults [(96 < f w1 0 7, .gmax), (gmax < f w1 8 7, .gb), (gmax < f w1 16 7, .gdef),
        (16 < f w0 16 5, .slope), (f w0 8 5 = 0 ∨ 16 < f w0 8 5, .ramp)])
  ∧ (∀ w : Word,
    decodeToneStep w =
      { frequency := if f w 0 12 = 0 then 0 else if f w 0 12 < 100 then 100 else if 3000 < f w 0 12 then 3000 else f w 0 12
        level := if 96 < f w 16 7 then 96 else f w 16 7, duration := f w 24 8 }
    ∧ toneStepFaults w = faults [((1 ≤ f w 0 12 ∧ f w 0 12 ≤ 99) ∨ 3000 < f w 0 12, .frequency), (96 < f w 16 7, .level)])
  ∧ (∀ (stamp : BitVec 32) (r : CallRef) (l : LineNo) (g h : GroupNo) (k : ParkNo) (n : Nat), n < 256 →
    let head := fun kind a b c : Nat =>
      (BitVec.ofNat 8 c ++ BitVec.ofNat 8 b ++ BitVec.ofNat 8 a ++ BitVec.ofNat 8 kind : Word)
    let num := fun m : Nat => BitVec.ofNat 32 m
    let is := fun (x : Notice) (w0 w1 w2 : Word) => recordWords ⟨x, stamp⟩ = [w0, w1, w2, stamp]
    is (.offer g r l) (head 1 g.val 0 0) (r.setWidth 32) (num l.val)
    ∧ is (.offerLapsed g .line r l) (head 2 g.val 1 0) (r.setWidth 32) (num l.val)
    ∧ is (.offerLapsed g .window r l) (head 2 g.val 2 0) (r.setWidth 32) (num l.val)
    ∧ (∀ x ∈ [(WithdrawReason.noAnswer, 1), (.answeredElsewhere, 2), (.abandoned, 3), (.cancelled, 4), (.overflow, 5),
        (.deflected, 6), (.picked, 7)], is (.withdraw x.1 r l) (head 3 x.2 0 0) (r.setWidth 32) (num l.val))
    ∧ is (.answered (some g) r l) (head 4 g.val 0 0) (r.setWidth 32) (num l.val)
    ∧ is (.answered none r l) (head 4 0xFF 0 0) (r.setWidth 32) (num l.val)
    ∧ is (.queued g n r) (head 5 g.val n 0) (r.setWidth 32) 0
    ∧ is (.overflow g h n r) (head 6 g.val h.val n) (r.setWidth 32) 0
    ∧ is (.deflect g n .hops r) (head 7 g.val n 1) (r.setWidth 32) 0
    ∧ is (.deflect g n .noTarget r) (head 7 g.val n 2) (r.setWidth 32) 0
    ∧ is (.abandonedCall g r l) (head 8 g.val 0 0) (r.setWidth 32) (num l.val)
    ∧ is (.abandonedPark k r l) (head 8 k.val 1 0) (r.setWidth 32) (num l.val)
    ∧ (∀ i : MemberPos, is (.memberOut g i l) (head 9 g.val i.val 0) (num l.val) 0)
    ∧ (∀ p q : Option LineNo, is (.parkRecall k r p q) (head 10 k.val 0 0) (r.setWidth 32)
        (num ((match p with | some p => p.val | none => 2 ^ 15) + match q with | some q => q.val * 2 ^ 16 | none => 2 ^ 31)))
    ∧ (∀ (p q : PageNo) (z : ZoneNo),
      (∀ v ∈ [(PageNoticeState.pending, 1), (.preamble, 2), (.active, 3), (.releasing, 4), (.ended, 5)],
        ∀ c ∈ [(none, 0), (some EndCause.request, 1), (some .sourceDone, 2), (some .sourceFault, 3), (some .maxDuration, 4),
          (some .linked, 5), (some .waitLimit, 6)],
        ∀ pr ∈ [(PagePriority.background, 0), (.normal, 1), (.urgent, 2), (.emergency, 3)],
        ∀ o ∈ [(PageOrigin.request, 1, 0), (.group g, 2, g.val), (.park k, 3, k.val)],
        is (.pageState p v.1 c.1 o.1 pr.1) (head 11 p.val v.2 c.2) (num (o.2.1 * 2 ^ 16 + o.2.2)) (num pr.2))
      ∧ is (.zoneLost p z .preempted (some q)) (head 12 p.val z.val 1) 0 (num q.val)
      ∧ (∀ w ∈ [(ZoneLostReason.disabled, 2), (.loud, 3), (.target, 4)],
        is (.zoneLost p z w.1 none) (head 12 p.val z.val w.2) 0 0)
      ∧ (∀ a ∈ [(WindowState.normal, 0), (.loud, 1), (.micSilent, 2)],
        ∀ b ∈ [(WindowState.normal, 0), (.loud, 1), (.micSilent, 2)], ∀ lc < 256,
        is (.noiseState z a.1 b.1 n (some lc)) (head 13 z.val a.2 b.2) 0 (num (n + lc * 2 ^ 16))
          ∧ is (.noiseState z a.1 b.1 n none) (head 13 z.val a.2 b.2) 0 (num (n + 2 ^ 8)))
      ∧ (∀ w ∈ [(AudioFaultReason.clipFormat, 1), (.noFinal, 2), (.underrun, 3), (.liveOverrun, 4)], ∀ source detail : Nat,
        is (.audioFault p w.1 source detail) (head 14 p.val w.2 0) (num source) (num detail)))
    ∧ (∀ a ∈ [(FaultRegion.lineState, 1), (.lineConfig, 2), (.groupHeader, 3), (.member, 4), (.control, 5), (.zone, 6),
        (.clipDirectory, 7), (.tonePattern, 8)],
      ∀ b ∈ [(FaultField.code, 1), (.reference, 2), (.pickupGroup, 3), (.capacity, 4), (.ringTime, 5), (.overflowWait, 6),
        (.floorPriority, 7), (.threshold, 8), (.autoSignOut, 9), (.duplicate, 10), (.confirmWindow, 11), (.parkTime, 12),
        (.consumer, 13), (.rise, 14), (.fall, 15), (.q, 16), (.high, 17), (.low, 18), (.line, 19), (.silLevel, 21),
        (.resume, 22), (.window, 23), (.gmax, 24), (.gb, 25), (.gdef, 26), (.slope, 27), (.ramp, 28), (.address, 29),
        (.frequency, 30), (.level, 31)],
      ∀ index : Nat, is (.configFault ⟨a.1, b.1, index⟩) (head 15 a.2 b.2 0) (num index) 0)
    ∧ (∀ (m : SlotNo) (x : CmdRefusal), is (.reqRefused m x) (head 16 m.val (if x.partialWrite = true then 2 else 1) 0)
        ((x.tag ++ x.code).setWidth 32) 0)
    ∧ is (.trackFull .set r l) (head 17 1 0 0) (r.setWidth 32) (num l.val)
    ∧ is (.trackFull .table r l) (head 17 2 0 0) (r.setWidth 32) (num l.val)
    ∧ (∀ drops : Nat, is (.ringOverrun drops) (head 18 0 0 0) (num drops) 0)
    ∧ ∀ (restart : Bool) (count : BitVec 16), is (.ready restart count) (head 19 (if restart = true then 2 else 1) 0 0)
        (count.setWidth 32) 0x00016420)

/-! ### Reset, the clock and the array port -/

/-- RESET_PIN_RELEASE samples the straps and enters SCANNING (R174, R181). RESET_PIN_FALL sets the power-on values, but for the
array, which keeps its bytes when no posting is cut, with no access waiting; SA_BASE keeping its value until the release is the
model's own (log entry 2), and so is the index of free values (log entry 8). PLANT_TIME_TICK raises plant time by one modulo 2^32,
and is held while the pin is low (R177); the model's clock goes with it (log entry 6). That the slots of a frame in progress carry 0
from the fall on is the model's own too (log entry 41). -/
def Obligations.ResetPinAndClock : Prop :=
  ∀ s : State,
    (∀ straps, s.ptu.mode = .resetLow →
      exec (.resetPinRelease straps) s = .next { s with ptu := { s.ptu with mode := .scanning, saBase := straps } })
    ∧ (noPosting s → s.ptu.waiting = [] →
      exec .resetPinFall s = .next { State.reset with
        pending := s.pending
        ptu := { State.reset.ptu with saBase := s.ptu.saBase, array := s.ptu.array, freeCount := s.ptu.freeCount } })
    ∧ (s.ptu.mode ≠ .resetLow →
      exec .plantTimeTick s = .next { s with ptu := { s.ptu with
        plantTime := s.ptu.plantTime + 1, clock := s.ptu.clock + 1 } })
    ∧ (s.ptu.mode = .resetLow → exec .plantTimeTick s = .next s)

/-- PLAIN_WRITE that takes the port at once, to an address that is no watched word or while the reset pin is low, stores its enabled
bytes in the array (R173, R174, R176, R181). An access that was held sets the hold mark and one that was not held clears it, a
processor read that uses the port as well as PLAIN_WRITE (R180; that a read arrives as an operand of MASTER_BURST_START is the
model's, log entry 9). Nothing else changes. -/
def Obligations.PlainWriteStores : Prop :=
  ∀ s : State, PortFree s →
    (∀ (a : Address) (d : Word) (be : ByteEnables),
      memoriesCanonical s → s.ptu.mode = .resetLow ∨ watchedWord a s = none →
      ∃ t, exec (.plainWrite a d be) s = .next t
        ∧ t = { s with ptu := { s.ptu with
            array := t.ptu.array, holdMark := s.ptu.heldAccess, heldAccess := false } }
        ∧ ∀ b : Nat, memByte t.ptu.array b =
            if 4 * a.toNat ≤ b ∧ b < 4 * a.toNat + 4 ∧ be.getLsbD (b - 4 * a.toNat) = true
            then d.extractLsb' (8 * (b - 4 * a.toNat)) 8 else memByte s.ptu.array b)
    ∧ exec (.masterBurstStart true) s = .next
        { s with ptu := { s.ptu with holdMark := s.ptu.heldAccess, heldAccess := false } }

/-- MASTER_BURST_START in a gap, with no access waiting, takes the first request in master order (R178, R179): during SCANNING the
scan's next burst; in service the urgent fetch of the first page after the pointer, else the posting that is due, else the fetch of
the first page after the pointer, to which the pointer moves. The burst holds the port, whichever of a fetch's four it is. A fetch is
urgent while fewer than 16 samples are left unproduced in the full buffers of its page's context (R102; that the mark goes by the
present context: log entry 22), and a posting is due while the part is READY, a notice is queued and fewer than 255 records are
outstanding (R166). -/
def Obligations.BurstOrder : Prop :=
  (∀ s : State, (∀ p, urgentFetch p s = true ↔ FetchUrgent p s) ∧ (postingDue s = true ↔ PostingMayStart s))
  ∧ ∀ s : State, s.ptu.burst = none → s.ptu.waiting = [] →
    (s.ptu.mode = .scanning → s.ptu.scanned < 670 →
      exec (.masterBurstStart false) s = .next { s with ptu := { s.ptu with burst := some .scan } })
    ∧ (s.ptu.mode = .ready → (∀ p, urgentFetch p s = false) → postingDue s = true →
      exec (.masterBurstStart false) s = .next { s with ptu := { s.ptu with burst := some .posting } })
    ∧ (∀ (k : Nat) (p : PageNo) (f : Fetch), s.ptu.mode = .ready → k < 16 →
        p = Fin.ofNat 16 (s.ptu.fetchPointer.val + 1 + k) → s.ctp.fetches.get p = some f →
        (urgentFetch p s = true ∧ (∀ j < k, urgentFetch (Fin.ofNat 16 (s.ptu.fetchPointer.val + 1 + j)) s = false)
          ∨ (∀ q, urgentFetch q s = false) ∧ postingDue s = false
            ∧ ∀ j < k, s.ctp.fetches.get (Fin.ofNat 16 (s.ptu.fetchPointer.val + 1 + j)) = none) →
        exec (.masterBurstStart false) s = .next
          { s with ptu := { s.ptu with fetchPointer := p, burst := some (.fetch p) } })

/-- Waiting and holding (R173, R178, R180), for every access: PLAIN_WRITE, each write of a watched word, and a read that uses the
port. While a burst is on the port the access waits, behind those that wait already, and nothing else changes; no burst starts in
a gap then. An access that waited behind others is carried, when a burst ends and those before it are carried, as if it had
arrived at that moment. An access that meets the hold condition on a free port with the hold mark clear is held: the first burst in
master order runs before it, and the access is carried behind it as one that was held. The hold condition is in force in service
while a fetch marked urgent (R102) has bursts still to run, or while a posting may start (R166) and the oldest queued notice has waited
more than 2 ms. That accesses wait in a queue of the State,
and how a read arrives, is the model's own (log entry 9). -/
def Obligations.PortWaits : Prop :=
  (∀ s : State, holdCondition s = true ↔ HoldInForce s)
  ∧ ∀ (a : Access) (c : Instr),
    (match a with
      | .plain addr d be => c = .plainWrite addr d be
      | .watched w d be => c.wellFormed = true ∧ written c = some (w, d, be)
      | .read => c = .masterBurstStart true) →
    (∀ s : State, s.ptu.burst ≠ none →
      exec c s = .next { s with ptu := { s.ptu with waiting := s.ptu.waiting ++ [a] } }
        ∧ exec (.masterBurstStart false) s = .next s)
    ∧ (∀ (e : Instr) (ws : List Access) (s t : State),
        e = .scanBurstEnd ∨ e = .blockFetchLands ∨ e = .noticePostingComplete → s.ptu.burst ≠ none →
        exec e { s with ptu := { s.ptu with waiting := ws } } = .next t → t.ptu.burst = none → t.ptu.waiting = [] →
        exec e { s with ptu := { s.ptu with waiting := ws ++ [a] } } = exec c t)
    ∧ (∀ s t : State, s.ptu.burst = none → s.ptu.waiting = [] → s.ptu.heldAccess = false → holdCondition s = true →
        s.ptu.holdMark = false → exec (.masterBurstStart false) s = .next t →
        t.ptu.burst ≠ none ∧ exec c s = .next { t with ptu := { t.ptu with heldAccess := true, waiting := [a] } })

/-- The end of a scan burst, with no access waiting, frees the port, sets the copy of each of its words to the array's word and marks
them read, and changes no other copy; the part becomes READY after the 670th (R182, R184). -/
def Obligations.ScanBurstCopies : Prop :=
  ∀ (s : State) (b : ScanBurst), memoriesCanonical s → s.ptu.mode = .scanning → s.ptu.burst = some .scan →
    s.ptu.waiting = [] → scanBurstAt s.ptu.scanned = some b →
    ∃ t, exec .scanBurstEnd s = .next t
      ∧ t.ptu.burst = none ∧ t.ptu.scanned = s.ptu.scanned + 1 ∧ t.ptu.array = s.ptu.array
      ∧ (∀ w ∈ burstWords b, copyOf w t = arrayWord (saAddress s.ptu.saBase (saOffset w)) s)
      ∧ (∀ w, inMap w = true → w ∉ burstWords b → copyOf w t = copyOf w s)
      ∧ t.ptu.mode = (if s.ptu.scanned = 669 then .ready else .scanning)
      ∧ t.ptu.plantTime = s.ptu.plantTime ∧ t.ptu.restartCount = s.ptu.restartCount
      ∧ t.ptu.saBase = s.ptu.saBase

/-- What the owners take from the words a burst of the scan reads: the control region (R29, R61, R148, R169, R171); a slot becomes
IDLE but for the slot of the RESTART in progress (R160, R161); a zone's enable (R76), AMON's fields with NE at 16 times the clamped
Q, NORMAL and no silence (R131), ZOS's fields (R132, R153); a page target (R75); a pattern's steps and repeat count, and a clip
entry (R115); a group's header and its service state from the initial night flag (R25, R51); a member word, with the sign-in state
from its initial flag (R24); a permission set (R53); and a line's two words, IDLE lines joining the Idle Order in line order (R5,
R20). Which patterns a burst of repeat words holds is the model's choice (log entry 34). -/
def Obligations.ScanOwners : Prop :=
  ∀ (s : State) (b : ScanBurst), memoriesCanonical s → s.ptu.mode = .scanning → s.ptu.burst = some .scan →
    s.ptu.waiting = [] → scanBurstAt s.ptu.scanned = some b →
    let read := fun w : Watched => arrayWord (saAddress s.ptu.saBase (saOffset w)) s
    let f := fun (w : Watched) (lo len : Nat) => ((read w).extractLsb' lo len).toNat
    ∃ t, exec .scanBurstEnd s = .next t ∧
      match b with
      | .control =>
        t.ntu.consumer = (read .consumer).extractLsb' 0 8
          ∧ t.ntu.threshold = (if f .interruptWord 0 8 = 0 then 1 else f .interruptWord 0 8)
          ∧ t.ntu.holdoff = f .interruptWord 8 8 ∧ t.zos.linkEnable = (read .linkEnables).extractLsb' 0 3
          ∧ t.deng.confirmWindow = (if f .control 0 8 = 0 then 2000 else 100 * max 5 (min (f .control 0 8) 50))
          ∧ t.deng.parkTime = max 10 (min (f .control 16 10) 600)
      | .slot n => t.rqu.slots.get n = if s.ptu.restartSlot = some n then s.rqu.slots.get n else SlotRec.initial
      | .zone z =>
        t.pctl.enabled.get z = (read (.zone z 0)).getLsbD 0
          ∧ (t.amon.get z).fields = decodeAmon (read (.zone z 0)) (read (.zone z 2)) (read (.zone z 3))
          ∧ (t.amon.get z).ne = 16 * min (f (.zone z 2) 0 8) 120
          ∧ (t.amon.get z).window = .normal ∧ (t.amon.get z).silence = 0
          ∧ (t.zos.zones.get z).gain = decodeGain (read (.zone z 0)) (read (.zone z 1))
      | .targets _ => ∀ x, Watched.target x ∈ burstWords b → t.pctl.targets.get x = (read (.target x)).extractLsb' 0 24
      | .tones p => ∀ i, ((t.ctp.patterns.get p).steps.get i) = decodeToneStep (read (.toneStep p i))
      | .toneRepeats _ => ∀ p, Watched.toneRepeat p ∈ burstWords b →
          t.ctp.patterns.get p = { s.ctp.patterns.get p with repeats := f (.toneRepeat p) 0 8 }
      | .clips _ => ∀ c, Watched.clip c 0 ∈ burstWords b → t.ctp.directory.get c =
          ⟨BitVec.ofNat 22 (32 * f (.clip c 0) 5 17), f (.clip c 1) 0 16, f (.clip c 1) 16 4, f (.clip c 1) 24 8⟩
      | .header g =>
        (t.deng.groups.get g).config =
            decodeHeader (read (.header g 0)) (read (.header g 1)) (read (.header g 2)) (read (.header g 3))
          ∧ (t.deng.groups.get g).night = (read (.header g 0)).getLsbD 4
      | .members g _ => ∀ i, Watched.member g i ∈ burstWords b →
          ((t.deng.groups.get g).members.get i).line = Fin.ofNat 1024 (min (f (.member g i) 0 16) 1023)
            ∧ ((t.deng.groups.get g).members.get i).valid = (read (.member g i)).getLsbD 16
            ∧ ((t.deng.groups.get g).members.get i).initialSignIn = (read (.member g i)).getLsbD 17
            ∧ ((t.deng.groups.get g).members.get i).signedIn = (read (.member g i)).getLsbD 17
      | .permissions _ => ∀ p, Watched.permission p 0 ∈ burstWords b → ∀ k : PickupNo,
          (t.deng.permissions.get p).getLsbD k.val = (p ≠ 0 && k ≠ 0 &&
            (if k.val < 32 then (read (.permission p 0)).getLsbD k.val else (read (.permission p 1)).getLsbD (k.val - 32)))
      | .lines _ =>
        (∀ l, Watched.lineState l ∈ burstWords b →
          t.lmon.shadows.get l = { s.lmon.shadows.get l with
            state := (decodeLineState (read (.lineState l))).1
            pickup := Fin.ofNat 64 (min (f (.lineConfig l) 0 8) 63)
            directedAny := (read (.lineConfig l)).getLsbD 8, noPickupFrom := (read (.lineConfig l)).getLsbD 9 })
        ∧ ((∀ l, Watched.lineState l ∈ burstWords b → (s.lmon.shadows.get l).state = .busy ∧ l ∉ s.lmon.idleOrder) →
          t.lmon.idleOrder = s.lmon.idleOrder ++ (List.finRange 1024).filter fun l =>
            Watched.lineState l ∈ burstWords b ∧ (decodeLineState (read (.lineState l))).1 = .idle)

/-- The scan's end, with no access waiting (R160, R171, R172, R184): the producer index equals the consumer index; READY is the first
notice of the queue, with its cause and the restart count; behind it stand REQ_REFUSED for each slot with a noted refusal, in slot
order, and then the noted CONFIG_FAULTs in their order, as many as the queue holds, the others being counted as dropped; a RESTART's
slot is DONE with the count, no refusal and no fault is still noted, and the presentation begins. The order of the noted faults is
that of R184: each new one is put behind those of its place and before those of a later place, once; control, then zone by zone
AMON's before ZOS's, patterns, clip entries, and group by group the header's before the members'. (That a fault is noted once for a
field, and for a pattern once for each step: log entry 16; that the faults of one place stand in the order noted, and the members of
a group by position: log entry 40.) -/
def Obligations.ScanEnds : Prop :=
  (∀ s : State, s.ptu.mode = .scanning → s.ptu.burst = some .scan → s.ptu.waiting = [] → s.ptu.scanned = 669 →
    s.ntu.queue = [] → s.ntu.drops ≤ 65535 →
    let ns : List Notice := .ready s.ptu.restartSlot.isSome s.ptu.restartCount
      :: (List.finRange 16).filterMap (fun n => (s.rqu.slots.get n).noted.map fun x => Notice.reqRefused n x)
      ++ s.ntu.noted.map fun x => Notice.configFault x.fault
    ∃ t, exec .scanBurstEnd s = .next t
      ∧ t.ptu.mode = .ready ∧ t.ntu.producer = s.ntu.consumer ∧ t.ntu.consumer = s.ntu.consumer
      ∧ t.ntu.queue = (ns.take 32).map (fun x => ⟨x, s.ptu.plantTime⟩)
      ∧ t.ntu.drops = (if ns.length ≤ 32 then s.ntu.drops else min (s.ntu.drops + (ns.length - 32)) 65535)
      ∧ t.ptu.restartSlot = none
      ∧ (∀ n, s.ptu.restartSlot = some n →
          (t.rqu.slots.get n).state = .done ∧ (t.rqu.slots.get n).result = .ok
            ∧ (t.rqu.slots.get n).result0 = packed [(s.ptu.restartCount.toNat, 0)])
      ∧ (∀ n, (t.rqu.slots.get n).noted = none) ∧ t.ntu.noted = [] ∧ t.lmon.presenting = 0)
  ∧ (∀ (s : State) (region : FaultRegion) (field : FaultField) (index step : Nat) (before after : List NotedFault),
    s.ptu.mode = .scanning →
    let f : NotedFault := ⟨⟨region, field, index⟩, step⟩
    let place := fun x : NotedFault => faultRank x.fault
    (f ∈ s.ntu.noted → stepFault region index step s field = s)
    ∧ (f ∉ s.ntu.noted → s.ntu.noted = before ++ after → (∀ x ∈ before, place x ≤ place f) → (∀ x ∈ after, place f < place x) →
        stepFault region index step s field = { s with ntu := { s.ntu with noted := before ++ f :: after } }))
  ∧ (∀ (z y : ZoneNo) (t u : PatternNo) (c d : ClipNo) (g h : GroupNo) (i : MemberPos) (e : FaultField),
    let rank := fun (a : FaultRegion) (f : FaultField) (n : Nat) => faultRank ⟨a, f, n⟩
    let amon : List FaultField := [.rise, .fall, .q, .high, .low, .silLevel, .resume, .window]
    let zos : List FaultField := [.gmax, .gb, .gdef, .slope, .ramp]
    (∀ a ∈ amon, ∀ b ∈ zos, rank .control e 0 < rank .zone a z ∧ rank .zone a z < rank .zone b z
        ∧ (z < y → rank .zone b z < rank .zone a y) ∧ rank .zone b z < rank .tonePattern e t)
      ∧ (t < u → rank .tonePattern e t < rank .tonePattern e u) ∧ rank .tonePattern e t < rank .clipDirectory e c
      ∧ (c < d → rank .clipDirectory e c < rank .clipDirectory e d) ∧ rank .clipDirectory e c < rank .groupHeader e g
      ∧ rank .groupHeader e g < rank .member e (32 * g.val + i.val)
      ∧ (g < h → rank .member e (32 * g.val + i.val) < rank .groupHeader e h))

/-- RESTART with no access waiting (R161, R171, R185): every block returns to its power-on values but for what is kept (plant time,
SA_BASE, the copies, the consumer and producer indices, the interrupt word, the RESTART's own slot), the restart count rises by one
modulo 65536, and the scan begins. The slot values a frame has put out are kept till the next frame (log entry 30). A posting that
RESTART or the reset pin cuts is abandoned: the producer index is not advanced by it, and outside the four words of its record the
array keeps every byte; how many of the four are written is a free value (log entry 8), and the statement holds for each. -/
def Obligations.RestartClears : Prop :=
  (∀ (n : SlotNo) (s : State), Served 0x0D n s → noPosting s → s.ptu.waiting = [] →
    exec .restart s = .next
      { s with
        ptu := { s.ptu with
          mode := .scanning, restartCount := s.ptu.restartCount + 1, scanned := 0, restartSlot := some n
          burst := none, holdMark := false, heldAccess := false, fetchPointer := 15 }
        lmon := State.reset.lmon
        deng := State.reset.deng
        pctl := State.reset.pctl
        ctp := State.reset.ctp
        amon := State.reset.amon
        zos := { State.reset.zos with slotOut := s.zos.slotOut }
        rqu := { slots := Vector.ofFn fun i => if i = n then s.rqu.slots.get i else SlotRec.initial, pointer := n }
        ntu := { s.ntu with queue := [], drops := 0, interrupt := false, noted := [] } })
  ∧ (∀ (c : Instr) (s t : State), memoriesCanonical s → s.ptu.waiting = [] → c = .resetPinFall ∨ c = .restart →
      exec c s = .next t →
      (c = .restart → t.ntu.producer = s.ntu.producer)
        ∧ ∀ a : Nat, (∀ j < 4, ∀ i < 4, a ≠ 4 * (recordAddress j s).toNat + i) →
            memByte t.ptu.array a = memByte s.ptu.array a)

/-! ### Lines -/

/-- LINE_PRESENTATION presents the next line from its shadow (R20). It first raises the faults noted for the line, in the order they
were noted (log entry 35), and drops the notes. A line that is neither RINGING nor TALKING is not reported; a line RINGING a
reference that no record and no park holds makes a DIRECT record at the tail of the Presentation Order (R7, R14), or raises TRACK_FULL
(TABLE) with 128 records in use; one RINGING a parked reference does nothing. A line RINGING the reference of a call in use joins its
ringing set at the tail, without a mark, a QUEUED or OFFERED call becoming RINGING with its no-answer timer started unless it runs or
the ring time is 0; with 32 ringing lines TRACK_FULL (SET) is raised instead (R14, R30); a line that stands in the call's ringing set
already stays there once (log entry 28). A QUEUED call's group has no floor-ring target. A line TALKING a reference that an earlier
line's DIRECT record holds answers it, and one whose reference no record holds changes nothing (R15). -/
def Obligations.PresentationReports : Prop :=
  ∀ (l : LineNo) (s : State), s.lmon.presenting = l.val →
    let u := raiseAll ((s.lmon.noted.filter (·.1 = l)).map fun x => Notice.configFault x.2)
      { s with lmon := { s.lmon with presenting := l.val + 1, noted := s.lmon.noted.filter (·.1 ≠ l) } }
    ((∀ r, (s.lmon.shadows.get l).state ≠ .ringing r) → (∀ r, (s.lmon.shadows.get l).state ≠ .talking r) →
      exec .linePresentation s = .next u)
    ∧ (∀ r : CallRef, (s.lmon.shadows.get l).state = .ringing r → (s.lmon.shadows.get l).reservation = none →
        (ringingCall l s = none → findCall r s = none →
          (parkedAs r s = none → exec .linePresentation s = .next
            (if s.deng.calls.length < 128 then
              { u with deng := { s.deng with calls := s.deng.calls ++ [⟨r, .ringing, [⟨l, false⟩], [], none⟩] } }
            else raiseNotice (.trackFull .table r l) u))
          ∧ ((parkedAs r s).isSome = true → exec .linePresentation s = .next u))
        ∧ (∀ c, findCall r s = some c → (∀ q ∈ s.deng.calls, q.ref = r → q = c) →
          (ringingCall l s = some c → exec .linePresentation s = .next u)
          ∧ (ringingCall l s = none → (∀ h, c.hunt = some h → c.state = .queued → FloorOff h.group s) →
            let c1 : CallRecord := { c with
              state := .ringing, ringing := c.ringing ++ [⟨l, false⟩]
              hunt := c.hunt.map fun h => if c.state = .ringing ∨ h.noAnswerAt.isSome = true then h else { h with
                noAnswerAt := if (s.deng.groups.get h.group).config.ringTime = 0 then none
                  else some (s.ptu.clock + 1000 * (s.deng.groups.get h.group).config.ringTime) } }
            exec .linePresentation s = .next
              (if c.ringing.length < 32 then { u with deng := { s.deng with calls := replaced r c1 s } }
              else raiseNotice (.trackFull .set r l) u))))
    ∧ (∀ r : CallRef, (s.lmon.shadows.get l).state = .talking r → (s.lmon.shadows.get l).reservation = none →
        ringingCall l s = none →
        (findCall r s = none → exec .linePresentation s = .next u)
        ∧ (∀ c, findCall r s = some c → c.hunt = none → c.reservations = [] →
          exec .linePresentation s = .next (freed .answeredElsewhere c (raiseNotice (.answered none r l) u))))

/-- LINE_STATE_WRITE in service gives the line the pair its merged word decodes to (R2) and moves it in the Idle Order (R5): no
change when the pair is the old one, the tail when the new state is IDLE, out of the list otherwise. No other line, and nothing
else that the processor's words give the blocks, changes; PTU holds the write and RQU is as it was. A write whose decode needs it raises
CONFIG_FAULT, CODE for a state code of 5 and above, REFERENCE for RINGING or TALKING with reference 0, whether or not the pair changes;
where the pair is the old one, that is all the write does. (That the CONFIG_FAULT comes before the notices of a transition: log entry
35.) -/
def Obligations.LineStateWritten : Prop :=
  ∀ (l : LineNo) (d : Word) (be : ByteEnables) (s : State), s.ptu.mode = .ready → PortFree s →
    let w := copyOf (.lineState l) (writeTaken (.lineState l) d be s)
    let x := (decodeLineState w).1
    let faults := fun u : State =>
      if 5 ≤ bits w 0 8 then raiseNotice (.configFault ⟨.lineState, .code, l.val⟩) u
      else if (bits w 0 8 = 2 ∨ bits w 0 8 = 3) ∧ bits w 16 16 = 0 then
        raiseNotice (.configFault ⟨.lineState, .reference, l.val⟩) u
      else u
    ((s.lmon.shadows.get l).state = x →
      exec (.lineStateWrite l d be) s = .next (faults (writeTaken (.lineState l) d be s)))
    ∧ ∃ t, exec (.lineStateWrite l d be) s = .next t
      ∧ t.ptu = (writeTaken (.lineState l) d be s).ptu ∧ t.rqu = s.rqu
      ∧ (faults s).ntu.queue <+: t.ntu.queue ∧ (faults s).ntu.drops ≤ t.ntu.drops
      ∧ (t.lmon.shadows.get l).state = x
      ∧ t.lmon.idleOrder =
          (if (s.lmon.shadows.get l).state = x then s.lmon.idleOrder
            else if x = .idle then s.lmon.idleOrder ++ [l] else s.lmon.idleOrder.erase l)
      ∧ SameInputs (if (s.lmon.shadows.get l).state = x then s else setLineState l x s) t

/-- LINE_STATE_WRITE of RINGING r by a line that does not ring r (R2, R14, R30). A reference that no record and no park holds makes a
DIRECT record, RINGING, with that line as its ringing set, at the tail of the Presentation Order, or raises TRACK_FULL (TABLE) with
128 records in use (R7); one that a park holds does nothing more. A line that rings a call in use joins its ringing set at the
tail, marked as offered exactly when it was reserved for the call, and the reservation leaves line and call; a QUEUED or OFFERED
call becomes RINGING, and its no-answer timer starts with the group's ring time unless that is 0 or the timer runs; that a call
RINGING already starts none is the model's choice (log entry 38). With 32 ringing lines TRACK_FULL (SET) is raised instead, and the
reservation leaves all the same. A QUEUED call's group has no floor-ring target. -/
def Obligations.LineRings : Prop :=
  ∀ (l : LineNo) (r : CallRef) (s : State), s.ptu.mode = .ready → PortFree s → memoriesCanonical s → r ≠ 0 →
    (s.lmon.shadows.get l).state ≠ .ringing r → ringingCall l s = none →
    let d : Word := packed [(2, 0), (r.toNat, 16)]
    let u := setLineState l (.ringing r) (writeTaken (.lineState l) d fullWord s)
    ((s.lmon.shadows.get l).reservation = none → findCall r s = none →
      (parkedAs r s = none → exec (.lineStateWrite l d fullWord) s = .next
        (if s.deng.calls.length < 128 then
          { u with deng := { s.deng with calls := s.deng.calls ++ [⟨r, .ringing, [⟨l, false⟩], [], none⟩] } }
        else raiseNotice (.trackFull .table r l) u))
      ∧ ((parkedAs r s).isSome = true → exec (.lineStateWrite l d fullWord) s = .next u))
    ∧ (∀ c, findCall r s = some c → (∀ q ∈ s.deng.calls, q.ref = r → q = c) →
        (s.lmon.shadows.get l).reservation = none ∨ (s.lmon.shadows.get l).reservation = some r →
        (∀ h, c.hunt = some h → c.state = .queued → FloorOff h.group s) →
        let offer : Bool := (s.lmon.shadows.get l).reservation = some r
        let c0 : CallRecord :=
          { c with reservations := if offer = true then c.reservations.filter (·.line ≠ l) else c.reservations }
        let c1 : CallRecord := { c0 with
          state := .ringing, ringing := c.ringing ++ [⟨l, offer⟩]
          hunt := c.hunt.map fun h => if c.state = .ringing then h else { h with
            noAnswerAt := if h.noAnswerAt.isSome = true then h.noAnswerAt
              else if (s.deng.groups.get h.group).config.ringTime = 0 then none
              else some (s.ptu.clock + 1000 * (s.deng.groups.get h.group).config.ringTime) } }
        exec (.lineStateWrite l d fullWord) s = .next
          (if c.ringing.length < 32 then outcome (unreserved [l] s) (replaced r c1 s) s.deng.groups [] u
          else outcome (unreserved [l] s) (replaced r c0 s) s.deng.groups [.trackFull .set r l] u))

/-- LINE_STATE_WRITE of TALKING r answers the call that holds r, whether the line rang, was reserved for it or neither (R15): ANSWERED
with the line and the group of a HUNT call, then WITHDRAW (ANSWERED_ELSEWHERE) for every other ringing line and reservation; the
answering member's no-answer count is 0 (R34), the record is free and its reservations are gone. A reference no record holds changes
only the line. The call is the only HUNT record and its group has no floor-ring target, so that its freeing starts nothing else. -/
def Obligations.LineAnswers : Prop :=
  ∀ (l : LineNo) (r : CallRef) (s : State), s.ptu.mode = .ready → PortFree s → memoriesCanonical s → r ≠ 0 →
    (s.lmon.shadows.get l).state ≠ .talking r →
    let d : Word := packed [(3, 0), (r.toNat, 16)]
    let u := setLineState l (.talking r) (writeTaken (.lineState l) d fullWord s)
    (findCall r s = none → (s.lmon.shadows.get l).reservation = none → ringingCall l s = none →
      exec (.lineStateWrite l d fullWord) s = .next u)
    ∧ (∀ c, findCall r s = some c → FreesAlone c s → (∀ q ∈ s.deng.calls, q.ref = r → q = c) →
        ((s.lmon.shadows.get l).reservation = none ∧ (∀ x ∈ c.reservations, x.line ≠ l)
          ∨ (s.lmon.shadows.get l).reservation = some r ∧ ∃ x ∈ c.reservations, x.line = l) →
        ringingCall l s = none ∨ ringingCall l s = some c →
        let left : CallRecord := { c with
          ringing := c.ringing.filter (·.line ≠ l), reservations := c.reservations.filter (·.line ≠ l) }
        exec (.lineStateWrite l d fullWord) s = .next
          (outcome (unreserved (l :: c.reservations.map (·.line)) s) (s.deng.calls.filter (·.ref ≠ r))
            (match c.hunt with
              | some h => match posOf (s.deng.groups.get h.group) l with
                | some i => (modMember h.group i (fun m => { m with noAnswers := 0 }) s).deng.groups
                | none => s.deng.groups
              | none => s.deng.groups)
            (.answered (c.hunt.map (·.group)) r l :: withdrawals .answeredElsewhere left) u))

/-- A line leaves a call by LINE_STATE_WRITE, by every pair but RINGING or TALKING with the call's own reference. Out of IDLE (R12):
OFFER_LAPSED (LINE), the member's position tried; out of a ringing set (R13): no notice, the order of the other lines kept, DIRECT
records freed with their last line, HUNT records OFFERED with their reservations and no no-answer timer, the position of an offered
member tried. A HUNT call left with neither re-hunts, and QUEUES where its group can offer nothing and has room (R32, R38). The group
has no floor-ring target. Only then does the new pair act (R11): IDLE runs the arbitration for the line, which is no call's caller and no
park's held party; another reference that it rings or talks with is looked up in what the leaving has left (R13, R14, R15).
A ringing line that goes IDLE is a member its call's re-hunt cannot take: the call queues, and the line goes to a queued call of
higher priority (R11, R39, R41). That the line is no choice of the re-hunt is read from R11's step 5 and R39 (log entry 33). That a
CONFIG_FAULT of the word comes before the other notices is the model's choice (log entry 35), and so is that a line which joins a call
RINGING already starts no no-answer timer (log entry 38). -/
def Obligations.LineLeaves : Prop :=
  ∀ (l : LineNo) (d : Word) (x : LineState) (faults : List FaultField) (s : State) (c : CallRecord)
    (before after : List CallRecord),
    s.ptu.mode = .ready → PortFree s → memoriesCanonical s → s.deng.calls = before ++ c :: after →
    (∀ q ∈ before ++ after, q.ref ≠ c.ref) → (∀ h, c.hunt = some h → FloorOff h.group s) →
    decodeLineState d = (x, faults) → x ≠ .ringing c.ref → x ≠ .talking c.ref →
    let u := setLineState l x
      (raiseAll (faults.map fun f => .configFault ⟨.lineState, f, l.val⟩) (writeTaken (.lineState l) d fullWord s))
    let try_ := fun (h : HuntPart) => match posOf (s.deng.groups.get h.group) l with
      | some i => { h with tried := i :: h.tried.filter (· ≠ i) }
      | none => h
    let become := fun (res : LineNo → Option CallRef) (c1 : List CallRecord) (ns : List Notice) =>
      outcome res (before ++ c1 ++ after) s.deng.groups ns u
    let requeued := fun (res : LineNo → Option CallRef) (h : HuntPart) (ns : List Notice) =>
      let c1 : CallRecord :=
        { c with state := .queued, ringing := [], reservations := [], hunt := some { h with noAnswerAt := none } }
      become res [c1] (ns ++ [.queued h.group (queuePosition c.ref h.group (become res [c1] [])) c.ref])
    let gives := fun v : State => ∃ t, exec (.lineStateWrite l d fullWord) s = .next t ∧ PairTaken l x v t
    (∀ h, c.hunt = some h → (s.lmon.shadows.get l).state = .idle → (s.lmon.shadows.get l).reservation = some c.ref →
      ringingCall l s = none → x ≠ .idle →
      let rest := c.reservations.filter (·.line ≠ l)
      let lapsed : Notice := .offerLapsed h.group .line c.ref l
      (c.ringing ≠ [] ∨ rest ≠ [] →
        gives (become (unreserved [l] s) [{ c with reservations := rest, hunt := some (try_ h) }] [lapsed]))
      ∧ (c.ringing = [] → rest = [] → CanOnlyQueue h.group s → gives (requeued (unreserved [l] s) (try_ h) [lapsed])))
    ∧ ((s.lmon.shadows.get l).state = .ringing c.ref → (s.lmon.shadows.get l).reservation = none → ringingCall l s = some c →
      let rest := c.ringing.filter (·.line ≠ l)
      let offered : Bool := c.ringing.any fun e => e.line = l && e.offered
      let same := fun k => (s.lmon.shadows.get k).reservation
      ((x = .idle → (∀ q ∈ s.deng.calls, ∀ k, q.hunt = some k → k.caller ≠ some l)
          ∧ ∀ n p, s.deng.parks.get n = some p → p.held ≠ some l) →
        (rest ≠ [] → gives (become same [{ c with ringing := rest }] []))
        ∧ (rest = [] → c.hunt = none → c.reservations = [] → gives (become same [] []))
        ∧ (∀ h, rest = [] → c.hunt = some h → c.reservations ≠ [] →
          gives (become same [{ c with state := .offered, ringing := [], hunt := some { h with noAnswerAt := none } }] []))
        ∧ (∀ h, rest = [] → c.hunt = some h → c.reservations = [] → CanOnlyQueue h.group s →
          gives (requeued same (if offered = true then try_ h else h) [])))
      ∧ (∀ (h k : HuntPart) (q : CallRecord) (i : MemberPos), x = .idle → rest = [] → c.reservations = [] →
          c.hunt = some h → CanOnlyQueue h.group s → (s.deng.groups.get h.group).night = false →
          isEffective (s.deng.groups.get h.group) i = true → ((s.deng.groups.get h.group).members.get i).line = l →
          ((s.deng.groups.get h.group).members.get i).signedIn = true →
          q ∈ after → q.state = .queued → q.ringing = [] → q.reservations = [] → q.hunt = some k → k.group = h.group →
          h.priority < k.priority → k.caller ≠ some l → h.caller ≠ some l →
          referencesSound s → (∀ p ∈ before ++ after, p.ref ≠ q.ref → p.hunt = none) →
          (∀ n p, s.deng.parks.get n = some p → p.held ≠ some l) →
          let h1 := if offered = true then try_ h else h
          let g := s.deng.groups.get h.group
          exec (.lineStateWrite l d fullWord) s = .next
            (outcome (reserved [l] q.ref s)
              (before ++ { c with state := .queued, ringing := [], hunt := some { h1 with noAnswerAt := none } }
                :: after.map fun p => if p.ref = q.ref then
                  { q with state := .offered, reservations := [⟨l, s.ptu.clock + s.deng.confirmWindow⟩] } else p)
              (if g.config.mode = .circular then putAt s.deng.groups h.group { g with huntPointer := i } else s.deng.groups)
              [.queued h.group 2 c.ref, .offer h.group q.ref l] u)))

/-- LINE_STATE_WRITE that takes a caller line to IDLE abandons its call (R16): ABANDONED, then WITHDRAW (ABANDONED) for each ringing
line and each reservation, and the record is freed; and every park whose held party the line is, in slot order, with ABANDONED, is
emptied (R69). The call is the only HUNT record, its group has no floor-ring target, and the parks have no page. -/
def Obligations.CallerAbandons : Prop :=
  ∀ (l : LineNo) (d : Word) (s : State) (c : CallRecord) (h : HuntPart), s.ptu.mode = .ready → PortFree s →
    memoriesCanonical s → bits d 0 8 = 0 → (s.lmon.shadows.get l).state ≠ .idle →
    (s.lmon.shadows.get l).reservation = none → findCall c.ref s = some c → c.hunt = some h → h.caller = some l →
    Alone c.ref s → FloorOff h.group s → (∀ q ∈ s.deng.calls, q.ref ≠ c.ref → ∀ e ∈ q.ringing, e.line ≠ l) →
    (∀ n k, s.deng.parks.get n = some k → k.held = some l → k.page = none) →
    let u := setLineState l .idle (writeTaken (.lineState l) d fullWord s)
    let t := outcome (unreserved (c.reservations.map (·.line)) s) (s.deng.calls.filter (·.ref ≠ c.ref)) s.deng.groups
      (.abandonedCall h.group c.ref l :: withdrawals .abandoned c ++ (List.finRange 16).filterMap fun n =>
        match s.deng.parks.get n with
        | some k => if k.held = some l then some (.abandonedPark n k.ref l) else none
        | none => none) u
    exec (.lineStateWrite l d fullWord) s = .next { t with deng := { t.deng with
      parks := Vector.ofFn fun n => (s.deng.parks.get n).filter fun k => k.held ≠ some l } }

/-- The newly-eligible-line arbitration (R41, R36), and the LINE_STATE_WRITE that runs it for a line entering IDLE (R11). Of the calls
QUEUED in DAY groups where the line is eligible, the one of highest priority and among equals the oldest is offered the line: it
leaves its queue, OFFERED, with OFFER and a confirm timer, and in CIRCULAR mode the pointer moves (R28, R29). With no such call,
the oldest offered or ringing call of a DAY ALL_RING group where the line is eligible and not ringing takes it as one more
reservation, in line order, keeping its state. Otherwise nothing happens. The queued call's group has no floor-ring target.
That a call with neither ringing line nor reservation is passed over is the model's inference (log entry 32), and that a call is
joined whatever the number of its reservations is its choice (log entry 36). -/
def Obligations.ArbitrationGives : Prop :=
  ∀ (l : LineNo) (s : State),
    let here := fun (c : CallRecord) (h : HuntPart) (i : MemberPos) => c.hunt = some h
      ∧ (s.deng.groups.get h.group).night = false ∧ eligibleAt h.group i s = true
      ∧ ((s.deng.groups.get h.group).members.get i).line = l
    let waits := fun c : CallRecord => c.state = .queued ∧ ∃ h i, here c h i
    let joins := fun c : CallRecord => c.state ≠ .queued ∧ (c.ringing ≠ [] ∨ c.reservations ≠ [])
      ∧ (∀ e ∈ c.ringing, e.line ≠ l) ∧ ∃ h i, here c h i ∧ (s.deng.groups.get h.group).config.mode = .allRing
    let expiry := s.ptu.clock + s.deng.confirmWindow
    (∀ (before after : List CallRecord) (c : CallRecord) (h : HuntPart) (i : MemberPos),
      s.deng.calls = before ++ c :: after → (∀ q ∈ before ++ after, q.ref ≠ c.ref) → here c h i →
      (waits c → (∀ q ∈ before, waits q → callPriority q < callPriority c) →
        (∀ q ∈ after, waits q → callPriority q ≤ callPriority c) → c.ringing = [] → c.reservations = [] → FloorOff h.group s →
        let g := s.deng.groups.get h.group
        arbitrate l s = outcome (reserved [l] c.ref s)
          (before ++ { c with state := .offered, reservations := [⟨l, expiry⟩] } :: after)
          (if g.config.mode = .circular then putAt s.deng.groups h.group { g with huntPointer := i } else s.deng.groups)
          [.offer h.group c.ref l] s)
      ∧ ((∀ q ∈ s.deng.calls, ¬ waits q) → joins c → (∀ q ∈ before, ¬ joins q) →
        c.state = (if c.ringing = [] then .offered else .ringing) →
        arbitrate l s = outcome (reserved [l] c.ref s)
          (before ++ { c with reservations := c.reservations.takeWhile (fun x => decide (x.line ≤ l))
            ++ ⟨l, expiry⟩ :: c.reservations.dropWhile (fun x => decide (x.line ≤ l)) } :: after)
          s.deng.groups [.offer h.group c.ref l] s))
    ∧ ((∀ q ∈ s.deng.calls, ¬ waits q ∧ ¬ joins q) → arbitrate l s = s)
    ∧ (∀ d : Word, s.ptu.mode = .ready → PortFree s → memoriesCanonical s → bits d 0 8 = 0 →
        (s.lmon.shadows.get l).state ≠ .idle → (s.lmon.shadows.get l).reservation = none → ringingCall l s = none →
        (∀ q ∈ s.deng.calls, ∀ h, q.hunt = some h → h.caller ≠ some l) →
        (∀ n k, s.deng.parks.get n = some k → k.held ≠ some l) →
        exec (.lineStateWrite l d fullWord) s
          = .next (arbitrate l (setLineState l .idle (writeTaken (.lineState l) d fullWord s))))

/-! ### Writes of tables and records -/

/-- Writes in service of line configs (R3), permissions (R53), the control word (R29, R61), the link enables (R148), tone patterns
(R107) and clip directory entries (R101): the block takes the fields as they act, each fault of the decode is raised, and nothing
else changes. The order of the faults of one write is the model's choice where it raises several (log entry 34). -/
def Obligations.TableWrites : Prop :=
  ∀ (d : Word) (be : ByteEnables) (s : State), s.ptu.mode = .ready → PortFree s →
    (∀ l : LineNo,
      let u := writeTaken (.lineConfig l) d be s
      let w := copyOf (.lineConfig l) u
      exec (.lineConfigWrite l d be) s = .next
        (modShadow l (fun x => { x with
            pickup := Fin.ofNat 64 (min (bits w 0 8) 63), directedAny := w.getLsbD 8, noPickupFrom := w.getLsbD 9 })
          (if 63 < bits w 0 8 then raiseNotice (.configFault ⟨.lineConfig, .pickupGroup, l.val⟩) u else u)))
    ∧ (∀ (p : PickupNo) (i : Fin 2), ∃ t, exec (.permissionWrite p i d be) s = .next t
      ∧ (let u := writeTaken (.permission p i) d be s
        t = { u with deng := { u.deng with permissions := t.deng.permissions } }
        ∧ ∀ q k : PickupNo, (t.deng.permissions.get q).getLsbD k.val =
          if q ≠ p then (s.deng.permissions.get q).getLsbD k.val
          else p ≠ 0 && k ≠ 0 && (if k.val < 32 then (copyOf (.permission p 0) u).getLsbD k.val
            else (copyOf (.permission p 1) u).getLsbD (k.val - 32))))
    ∧ (let u := writeTaken .control d be s
      let w := copyOf .control u
      exec (.controlWordWrite d be) s = .next
        (raiseAll (((if bits w 0 8 ≠ 0 ∧ (bits w 0 8 < 5 ∨ 50 < bits w 0 8) then [FaultField.confirmWindow] else [])
            ++ (if bits w 16 10 < 10 ∨ 600 < bits w 16 10 then [FaultField.parkTime] else [])).map
              fun f => Notice.configFault ⟨.control, f, 0⟩)
          { u with deng := { u.deng with
            confirmWindow := if bits w 0 8 = 0 then 2000 else 100 * max 5 (min (bits w 0 8) 50)
            parkTime := max 10 (min (bits w 16 10) 600) } }))
    ∧ (let u := writeTaken .linkEnables d be s
      exec (.linkEnableWrite d be) s = .next
        { u with zos := { u.zos with linkEnable := (copyOf .linkEnables u).extractLsb' 0 3 } })
    ∧ (∀ (t : PatternNo) (i : Fin 9), t ≠ 0 →
      let u := writeTaken (toneWord t i) d be s
      exec (.tonePatternWrite t i d be) s = .next
        (raiseAll (((List.finRange 8).flatMap fun k => toneStepFaults (copyOf (.toneStep t k) u)).map
            fun f => Notice.configFault ⟨.tonePattern, f, t.val⟩)
          { u with ctp := { u.ctp with patterns := (putAt u.ctp.patterns t
            ⟨Vector.ofFn fun k => decodeToneStep (copyOf (.toneStep t k) u), bits (copyOf (.toneRepeat t) u) 0 8⟩) } }))
    ∧ (∀ (c : ClipNo) (i : Fin 2),
      let u := writeTaken (.clip c i) d be s
      exec (.clipDirectoryWrite c i d be) s = .next
        (raiseAll ((if bits (copyOf (.clip c 0) u) 0 5 ≠ 0 then [FaultField.address] else []).map
            fun f => Notice.configFault ⟨.clipDirectory, f, c.val⟩)
          { u with ctp := { u.ctp with directory := (putAt u.ctp.directory c
            ⟨BitVec.ofNat 22 (32 * (bits (copyOf (.clip c 0) u) 5 17)), bits (copyOf (.clip c 1) u) 0 16,
              bits (copyOf (.clip c 1) u) 16 4, bits (copyOf (.clip c 1) u) 24 8⟩) } }))

/-- Writes in service of group headers (R21), member words (R23), zone records (R76, R121, R132) and page targets (R75): the
blocks take the fields of the merged record, and nothing else that the processor's words give the blocks changes; PTU holds the
write, RQU is as it was, and no member's sign-in state changes by a member word write (R24). A header write raises its faults; the
calls beyond a lowered capacity then leave the queue from its tail, each with DEFLECT (NO_TARGET), or, one call, by an overflow into
another group that queues it (R40, R43, R44); the group has no floor-ring target. A member word write raises LINE, then DUPLICATE for
every position ignored; when it changes an effective line it clears the tried sets of the group's calls and the counts of the
positions changed, and runs the arbitration for each line that joined and is eligible, in position order; nothing else changes
(R23). Every zone record write raises each fault of AMON's and of ZOS's decode once (R121, R132), A = 0 sets D to 0 (R118), MIC cleared
or SIL_TIME 0 sets the silence count to 0, and MIC cleared, a LOUD window disabled or SIL_TIME 0 in MIC_SILENT makes the zone NORMAL
(R122, R126 to R128). Where no page reacts, that is all, with NOISE_STATE (CONFIG) (R129), GA limited to GMAX (R140), GMAX under an
EMERGENCY page (R137), and GT and the ramp timer brought up to date (R133, R136). (DUPLICATE for every ignored position: log entry
29; the order of the notices: log entries 34 and 35, and AMON's faults before ZOS's: log entry 15; a line that only changed its
position has joined: log entry 39.) -/
def Obligations.RecordWrites : Prop :=
  ∀ (d : Word) (be : ByteEnables) (s : State), s.ptu.mode = .ready → PortFree s →
    (∀ (g : GroupNo) (i : Fin 8),
      let u := writeTaken (.header g i) d be s
      let w := fun k : Fin 8 => copyOf (.header g k) u
      let config := decodeHeader (w 0) (w 1) (w 2) (w 3)
      (∃ t, exec (.groupHeaderWrite g i d be) s = .next t ∧ t.ptu = u.ptu ∧ t.rqu = s.rqu
        ∧ SameInputs (modGroup g (fun h => { h with config := config }) s) t)
      ∧ (config.floorTarget = none → (s.deng.groups.get g).floorCondition = false →
        let faults := (headerFaults (w 0) (w 1) (w 2)).map fun f => Notice.configFault ⟨.groupHeader, f, g.val⟩
        let written := fun (calls : List CallRecord) (ns : List Notice) =>
          { raiseAll (faults ++ ns) u with deng := { s.deng with
            calls := calls, groups := (putAt s.deng.groups g { s.deng.groups.get g with config := config }) } }
        ((queueOf g s).length ≤ config.capacity → exec (.groupHeaderWrite g i d be) s = .next (written s.deng.calls []))
        ∧ (referencesSound s → (∀ q ∈ queueOf g s, q.ringing = [] ∧ q.reservations = []) →
          (config.overflowTarget = none →
            let surplus := ((queueOf g s).drop config.capacity).reverse
            exec (.groupHeaderWrite g i d be) s = .next (written (s.deng.calls.filter (· ∉ surplus))
              (surplus.filterMap fun q => q.hunt.map fun k => .deflect g k.hops.val .noTarget q.ref)))
          ∧ (∀ (x : GroupNo) (rest : List CallRecord) (q : CallRecord) (k : HuntPart), config.overflowTarget = some x → x ≠ g →
            queueOf g s = rest ++ [q] → rest.length = config.capacity → q.hunt = some k → k.hops.val < 4 →
            FloorOff x s → CanOnlyQueue x s →
            let calls := replaced q.ref { q with hunt := some (arrived x (Fin.ofNat 5 (k.hops.val + 1)) k s) } s
            let place := queuePosition q.ref x { s with deng := { s.deng with calls := calls } }
            exec (.groupHeaderWrite g i d be) s = .next
              (written calls [.overflow g x (k.hops.val + 1) q.ref, .queued x place q.ref])))))
    ∧ (∀ (g : GroupNo) (i : MemberPos),
      let u := writeTaken (.member g i) d be s
      let w := copyOf (.member g i) u
      let word := fun m : Member => { m with
        line := Fin.ofNat 1024 (min (bits w 0 16) 1023), valid := w.getLsbD 16, initialSignIn := w.getLsbD 17 }
      (∃ t, exec (.memberWordWrite g i d be) s = .next t ∧ t.ptu = u.ptu ∧ t.rqu = s.rqu
        ∧ SameInputs (modMember g i word s) t
        ∧ ∀ (h : GroupNo) (j : MemberPos), ((t.deng.groups.get h).members.get j).signedIn
            = ((s.deng.groups.get h).members.get j).signedIn)
      ∧ (let old := s.deng.groups.get g
        let new := { old with members := (putAt old.members i (word (old.members.get i))) }
        let changed := (List.finRange 32).filter fun j => memberAt old j ≠ memberAt new j
        let ignored := (List.finRange 32).filter fun j => (new.members.get j).valid = true ∧ memberAt new j = none
        let faults := (if 1023 < bits w 0 16 then [Notice.configFault ⟨.member, .line, 32 * g.val + i.val⟩] else [])
          ++ ignored.map fun j => .configFault ⟨.member, .duplicate, 32 * g.val + j.val⟩
        let counted := { new with members := Vector.ofFn fun j =>
          if j ∈ changed then { new.members.get j with noAnswers := 0 } else new.members.get j }
        let untried := fun c : CallRecord =>
          { c with hunt := c.hunt.map fun h => if h.group = g then { h with tried := [] } else h }
        exec (.memberWordWrite g i d be) s = .next
          (changed.foldl (fun t j => if eligibleAt g j t = true then arbitrate (counted.members.get j).line t else t)
            { raiseAll faults u with deng := { s.deng with
              calls := if changed = [] then s.deng.calls else s.deng.calls.map untried
              groups := (putAt s.deng.groups g counted) } })))
    ∧ (∀ (z : ZoneNo) (i : Fin 8),
      let u := writeTaken (.zone z i) d be s
      let w := fun n : Fin 8 => copyOf (.zone z n) u
      let k := decodeAmon (w 0) (w 2) (w 3)
      let g := decodeGain (w 0) (w 1)
      let pctl := { s.pctl with enabled := (if i = 0 then putAt s.pctl.enabled z ((w 0).getLsbD 0) else s.pctl.enabled) }
      let a := s.amon.get z
      let x := s.zos.zones.get z
      let b : AmonZone := { a with
        fields := k, dc := if k.adapt = 0 then 0 else a.dc
        silence := if k.mic = false ∨ k.silTime = 0 then 0 else a.silence
        window := if k.mic = false ∨ (a.window = .loud ∧ k.high ≤ k.low) ∨ (a.window = .micSilent ∧ k.silTime = 0) then .normal
          else a.window }
      let faults := fun fs : List FaultField => fs.map fun f => Notice.configFault ⟨.zone, f, z.val⟩
      let noise := faults (amonFaults (w 2) (w 3))
      let gain := faults (gainFaults (w 0) (w 1))
      let change := if b.window = a.window then [] else [Notice.noiseState z a.window b.window (a.ne / 16) none]
      let isFault := fun n : Notice => match n with | .configFault _ => true | _ => false
      (∃ t, exec (.zoneRecordWrite z i d be) s = .next t ∧ t.ptu = u.ptu ∧ t.rqu = s.rqu
        ∧ SameInputs (modZos z (fun x => { x with gain := g })
            (modAmon z (fun a => { a with fields := k }) { s with pctl := pctl })) t
        ∧ (t.amon.get z).dc = b.dc ∧ (t.amon.get z).silence = b.silence ∧ (t.amon.get z).window = b.window
        ∧ (t.amon.get z).ne = a.ne
        ∧ ∃ ns, t.ntu = (raiseAll ns u).ntu ∧ ns.filter isFault = noise ++ gain)
      ∧ (pctl = s.pctl ∨ s.pctl.pageOrder = [] ∧ s.pctl.holders.get z = none →
        (b.window = .loud ↔ a.window = .loud) ∨ (∀ p r, s.pctl.pages.get p = some r → r.priority ≠ .background) →
        (∀ h, s.pctl.holders.get z = some h → h.lettingGo = true → min x.ga g.gmax ≠ 0) →
        ∃ y : ZosZone,
          exec (.zoneRecordWrite z i d be) s = .next { raiseAll (noise ++ change ++ gain) u with
            pctl := pctl, amon := putAt s.amon z b, zos := { s.zos with zones := putAt s.zos.zones z y } }
          ∧ y.gain = g ∧ y.fifo = x.fifo ∧ y.gt = soughtGain (s.pctl.holders.get z) b g
          ∧ y.ga = (if emergencyHeld (s.pctl.holders.get z) = true then g.gmax else min x.ga g.gmax)
          ∧ (y.rampAt = none ↔ y.ga = y.gt) ∧ (b.window = a.window → y.rampAt = rampTo y.gt y.ga { x with gain := g } s)))
    ∧ (∀ x : TargetNo,
      let u := writeTaken (.target x) d be s
      ∃ t, exec (.pageTargetWrite x d be) s = .next t ∧ t.ptu = u.ptu ∧ t.rqu = s.rqu
        ∧ SameInputs { s with pctl := { s.pctl with targets :=
            (putAt s.pctl.targets x ((copyOf (.target x) u).extractLsb' 0 24)) } } t)

/-! ### Live channels, notices and the interrupt -/

/-- LIVE_BUFFER_WRITE in service (R113, R114): the write reaches the array. A page that is ACTIVE, or RELEASING after ACTIVE, gives the
samples that the byte enables select to every zone it holds, each FIFO taking as many as it has room for. On an enabled link a
zone's overrun mark is set when its last sample was dropped and cleared when it was taken, and LIVE_OVERRUN is raised as the mark is
set; on a disabled link the mark stays. The samples are discarded when no page names the channel, or the page is PENDING, in
PREAMBLE, or RELEASING after PREAMBLE. Nothing else changes. The link enables are those of the frame in progress (log entry 21),
and a sample visits the zones in ascending order (log entry 34). -/
def Obligations.LiveWrites : Prop :=
  ∀ (k : LiveNo) (i : Fin 128) (d : Word) (be : ByteEnables) (s : State), s.ptu.mode = .ready → PortFree s →
    let w := plainArrayWrite (saAddress s.ptu.saBase (saOffset (.live k i))) d be s
    let given : List Sample := if be = 0xF#4 then [d.extractLsb' 0 16, d.extractLsb' 16 16]
      else if be = 0x3#4 then [d.extractLsb' 0 16] else if be = 0xC#4 then [d.extractLsb' 16 16] else []
    ((∀ p r, s.pctl.pages.get p = some r → r.source ≠ .live k) → exec (.liveBufferWrite k i d be) s = .next w)
    ∧ (∀ p r, s.pctl.pages.get p = some r → r.source = .live k →
        (∀ q x, s.pctl.pages.get q = some x → x.source = .live k → q = p) →
        (r.state = .pending ∨ r.state = .preamble ∨ (r.state = .releasing ∧ r.wasActive = false) →
          exec (.liveBufferWrite k i d be) s = .next w)
        ∧ (r.state = .active ∨ (r.state = .releasing ∧ r.wasActive = true) →
          (∀ z : ZoneNo, (s.zos.zones.get z).fifo.length ≤ 64) →
          let fill := fun z : ZoneNo => (s.zos.zones.get z).fifo.length
          let overrunAt := fun n : Nat => (heldZones p s).filter fun z =>
            linkOn z s && fill z = n && (n < 64 || !s.ctp.overrun.get z)
          let ns := ((if given = [] then [] else overrunAt 64) ++ (if given.length = 2 then overrunAt 63 else [])).map
            fun z => Notice.audioFault p .liveOverrun k.val z.val
          exec (.liveBufferWrite k i d be) s = .next { raiseAll ns w with
            ctp := { s.ctp with
              overrun := Vector.ofFn fun z =>
              if z ∈ heldZones p s ∧ linkOn z s = true ∧ given ≠ [] then decide (64 < fill z + given.length)
              else s.ctp.overrun.get z }
            zos := { s.zos with
              zones := Vector.ofFn fun z =>
              if z ∈ heldZones p s then
                { s.zos.zones.get z with fifo := (s.zos.zones.get z).fifo ++ given.take (64 - fill z) }
              else s.zos.zones.get z } }))

/-- Raising a notice (R165): appended with the plant time when the NTU is not saturated, else dropped and counted up to 65535;
before READY nothing is raised (R171). -/
def Obligations.NoticeRaised : Prop :=
  ∀ (n : Notice) (s : State),
    (s.ptu.mode = .ready → s.ntu.queue.length < 32 → (s.ntu.producer - s.ntu.consumer).toNat < 255 →
      raiseNotice n s = { s with ntu := { s.ntu with queue := s.ntu.queue ++ [⟨n, s.ptu.plantTime⟩] } })
    ∧ (s.ptu.mode = .ready → 32 ≤ s.ntu.queue.length ∨ 255 ≤ (s.ntu.producer - s.ntu.consumer).toNat →
      s.ntu.drops ≤ 65535 →
      raiseNotice n s = { s with ntu := { s.ntu with drops := min (s.ntu.drops + 1) 65535 } })
    ∧ (s.ptu.mode ≠ .ready → raiseNotice n s = s)

/-- CONSUMER_INDEX_WRITE in service (R167, R168, R170): an index that leaves no more records outstanding is taken as written; any
other is taken as the producer index, with CONFIG_FAULT (control, 0, CONSUMER). Where notices have been dropped and the ring and the
queue have room again, RING_OVERRUN with their count is appended first and the count is 0. The interrupt is evaluated.
INTERRUPT_WORD_WRITE takes the threshold, 0 acting as 1, and the holdoff, and evaluates the interrupt; HOLDOFF_EXPIRY asserts it when
the oldest outstanding record has reached the holdoff (R169, R170). -/
def Obligations.ConsumerWritten : Prop :=
  (∀ (d : Word) (be : ByteEnables) (s : State), s.ptu.mode = .ready → PortFree s → s.ntu.drops ≤ 65535 →
    let u := writeTaken .consumer d be s
    let c := (copyOf .consumer u).extractLsb' 0 8
    let queue := fun left : Nat => if s.ntu.drops ≠ 0 ∧ s.ntu.queue.length < 32 ∧ left < 255 then
      s.ntu.queue ++ [⟨.ringOverrun s.ntu.drops, s.ptu.plantTime⟩] else s.ntu.queue
    let drops := fun left : Nat => if s.ntu.queue.length < 32 ∧ left < 255 then 0 else s.ntu.drops
    ∃ t, exec (.consumerIndexWrite d be) s = .next t
      ∧ t = { u with ntu := { s.ntu with
          consumer := t.ntu.consumer, queue := t.ntu.queue, drops := t.ntu.drops, interrupt := t.ntu.interrupt } }
      ∧ t.ntu.interrupt = (t.ntu.threshold ≤ outstanding t.ntu
          || (t.ntu.holdoff ≠ 0 && 0 < outstanding t.ntu && t.ntu.holdoff ≤ oldestAge t))
      ∧ (if (s.ntu.producer - c).toNat ≤ (s.ntu.producer - s.ntu.consumer).toNat then
          let left := (s.ntu.producer - c).toNat
          t.ntu.consumer = c ∧ t.ntu.queue = queue left ∧ t.ntu.drops = drops left
        else t.ntu.consumer = s.ntu.producer
          ∧ t.ntu.queue = (if (queue 0).length < 32 then
              queue 0 ++ [⟨.configFault ⟨.control, .consumer, 0⟩, s.ptu.plantTime⟩] else queue 0)
          ∧ t.ntu.drops = (if (queue 0).length < 32 then drops 0 else min (drops 0 + 1) 65535)))
  ∧ (∀ (d : Word) (be : ByteEnables) (s : State), s.ptu.mode = .ready → PortFree s →
    let u := writeTaken .interruptWord d be s
    let w := copyOf .interruptWord u
    let threshold := if bits w 0 8 = 0 then 1 else bits w 0 8
    let age := (s.ptu.plantTime - s.ntu.postedAt.get s.ntu.consumer.toFin).toNat
    exec (.interruptWordWrite d be) s = .next { u with ntu := { u.ntu with
      threshold := threshold, holdoff := bits w 8 8
      interrupt := threshold ≤ outstanding s.ntu
        || (bits w 8 8 ≠ 0 && 0 < outstanding s.ntu && bits w 8 8 ≤ age) } })
  ∧ (∀ s : State, s.ptu.mode = .ready → s.ntu.holdoff ≠ 0 → 0 < outstanding s.ntu →
    s.ntu.holdoff ≤ (s.ptu.plantTime - s.ntu.postedAt.get s.ntu.consumer.toFin).toNat →
    exec .holdoffExpiry s = .next { s with ntu := { s.ntu with interrupt := true } })

/-- NOTICE_POSTING_COMPLETE with no access waiting (R163, R166, R168, R170): the record's four words stand at the producer's ring
position and no other byte of the array changes, the notice leaves the queue, the producer index advances by one modulo 256, the
posting time is kept, the port is free and the interrupt is evaluated. Where notices have been dropped and the ring now has room,
RING_OVERRUN with their count joins the queue and the count is 0. -/
def Obligations.PostingCompletes : Prop :=
  ∀ (s : State) (q : Queued) (rest : List Queued), memoriesCanonical s → s.ptu.mode = .ready → s.ptu.waiting = [] →
    s.ptu.burst = some .posting → s.ntu.queue = q :: rest → s.ntu.queue.length ≤ 32 →
    let room : Bool := (s.ntu.producer + 1 - s.ntu.consumer).toNat < 255
    ∃ t, exec .noticePostingComplete s = .next t
      ∧ t = { s with
          ptu := { s.ptu with burst := none, array := t.ptu.array }
          ntu := { s.ntu with
            queue := if s.ntu.drops ≠ 0 ∧ room = true then rest ++ [⟨.ringOverrun s.ntu.drops, s.ptu.plantTime⟩] else rest
            drops := if room = true then 0 else s.ntu.drops
            producer := s.ntu.producer + 1, interrupt := t.ntu.interrupt
            postedAt := s.ntu.postedAt.set s.ntu.producer.toNat s.ptu.plantTime s.ntu.producer.isLt } }
      ∧ (∀ j < 4, arrayWord (recordAddress j s) t = (recordWords q).getD j 0)
      ∧ (∀ a : Nat, (∀ j < 4, ∀ i < 4, a ≠ 4 * (recordAddress j s).toNat + i) →
          memByte t.ptu.array a = memByte s.ptu.array a)
      ∧ t.ntu.interrupt = (t.ntu.threshold ≤ outstanding t.ntu
          || (t.ntu.holdoff ≠ 0 && 0 < outstanding t.ntu && t.ntu.holdoff ≤ oldestAge t))

/-! ### Request slots -/

/-- The writes of a request slot. PARAMETER_WORD_WRITE changes the array and, in service, the copy of its word, and nothing of the
part: no notice, no fault, no slot record (R158). A full-word CMD write to an IDLE or DONE slot in service is accepted (R155): code
and tag from the written value, the snapshot of the copies of P0 to P3, no result, PENDING; no notice, and no other slot; so is one
during SCANNING to a slot that the scan has read (R160). A full-word one to a PENDING slot is refused with BUSY, and a partial one in every state with PARTIAL (R156, R157): no slot record changes in
service, and REQ_REFUSED carries the merged copy's code and tag; during SCANNING, with the word read, the refusal is noted in the
slot and no notice is raised (R160). -/
def Obligations.CommandWritten : Prop :=
  ∀ (n : SlotNo) (d : Word) (be : ByteEnables) (s : State), PortFree s →
    (s.ptu.mode = .ready → ∀ i : Fin 4, exec (.parameterWordWrite n i d be) s = .next (writeTaken (.param n i) d be s))
    ∧ (s.ptu.mode = .ready ∨ (s.ptu.mode = .scanning ∧ isRead (.cmd n) s = true) → memoriesCanonical s →
        (s.rqu.slots.get n).state ≠ .pending →
        exec (.cmdWrite n d fullWord) s = .next { writeTaken (.cmd n) d fullWord s with
          rqu := { s.rqu with slots := putAt s.rqu.slots n { s.rqu.slots.get n with
            state := .pending, code := d.extractLsb' 0 8, tag := d.extractLsb' 8 8
            snapshot := ⟨copyOf (.param n 0) s, copyOf (.param n 1) s, copyOf (.param n 2) s, copyOf (.param n 3) s⟩
            result := .ok, result0 := 0, result1 := 0 } } })
    ∧ ((be = fullWord → (s.rqu.slots.get n).state = .pending) →
        let u := writeTaken (.cmd n) d be s
        let w := copyOf (.cmd n) u
        let f : CmdRefusal := ⟨w.extractLsb' 0 8, w.extractLsb' 8 8, be ≠ fullWord⟩
        (s.ptu.mode = .ready → exec (.cmdWrite n d be) s = .next (raiseNotice (.reqRefused n f) u))
        ∧ (s.ptu.mode = .scanning → isRead (.cmd n) s = true →
            exec (.cmdWrite n d be) s = .next (modSlot n (fun x => { x with noted := some f }) u)))

/-- A command that its owner refuses finishes its slot with the result code and words of its rule, moves the pointer to the slot, and
changes nothing else (R159): an unknown code; HUNT (R47), CANCEL (R19), GROUP_PICKUP (R56), DIRECTED_PICKUP with a line out of range
(R57), PARK (R62), RETRIEVE with a parameter out of range or an empty slot (R67), PAGE_START by each of the five steps of R93, and
PAGE_END (R94). The other refusals stand in SignInAndOut (R48), ServiceStateSet (R49), PickupsClaim (R57, steps 2 to 6), ParkFreed
(R67, step 3) and HuntEnds (R47, GROUP_BUSY and DEFLECTED). -/
def Obligations.RefusalsChangeNothing : Prop :=
  ∀ (n : SlotNo) (s : State),
    let p := (s.rqu.slots.get n).snapshot
    let r : CallRef := BitVec.ofNat 16 (bits p.p0 0 16)
    let refused := fun (e : ResultCode) =>
      Host.Outcome.next (φ := Fault) (ρ := Refusal) (finishSlot n ⟨e, 0, 0⟩ (pointed n s))
    (∀ code, Served code n s → code = 0 ∨ 0x0D < code → exec .unknownCommand s = refused .unknownCommand)
    ∧ (Served 0x01 n s →
        (bits p.p0 0 16 = 0 ∨ 63 < bits p.p1 0 8 ∨ (p.p2.getLsbD 31 = true ∧ 1023 < bits p.p2 0 16) →
          exec .hunt s = refused .badParam)
        ∧ (bits p.p0 0 16 ≠ 0 → bits p.p1 0 8 ≤ 63 → (p.p2.getLsbD 31 = true → bits p.p2 0 16 ≤ 1023) →
          (refHeld r s = true → exec .hunt s = refused .callExists)
          ∧ (refHeld r s = false → 128 ≤ s.deng.calls.length → exec .hunt s = refused .tableFull)))
    ∧ (Served 0x02 n s → refHeld r s = false →
        exec .cancel s = refused (if bits p.p0 0 16 = 0 then .badParam else .noCall))
    ∧ (Served 0x07 n s → (1023 < bits p.p0 0 16 → exec .groupPickup s = refused .badParam)
        ∧ (∀ l : LineNo, bits p.p0 0 16 = l.val →
          ((s.lmon.shadows.get l).pickup = 0 → exec .groupPickup s = refused .notMember)
          ∧ ((s.lmon.shadows.get l).pickup ≠ 0 → (∀ c ∈ s.deng.calls, ¬ RingsInReach l c s ∧ ¬ QueuesInReach l c s) →
            exec .groupPickup s = refused .nothing)))
    ∧ (Served 0x08 n s → 1023 < bits p.p0 0 16 ∨ 1023 < bits p.p1 0 16 → exec .directedPickup s = refused .badParam)
    ∧ (Served 0x09 n s →
        let bad : Prop := bits p.p0 0 16 = 0 ∨ (p.p1.getLsbD 15 = true ∧ 1023 < bits p.p1 0 12)
          ∨ (p.p1.getLsbD 31 = true ∧ 1023 < bits p.p1 16 12) ∨ (15 < bits p.p2 0 8 ∧ bits p.p2 0 8 ≠ 0xFF)
        (bad → exec .park s = refused .badParam)
        ∧ (¬ bad → refHeld r s = true → exec .park s = refused .callExists)
        ∧ (¬ bad → refHeld r s = false →
          (∀ k : ParkNo, bits p.p2 0 8 = k.val ∨ bits p.p2 0 8 = 0xFF → s.deng.parks.get k ≠ none) →
          exec .park s = refused .parkBusy))
    ∧ (Served 0x0A n s → (1023 < bits p.p0 0 16 ∨ 15 < bits p.p1 0 8 → exec .retrieve s = refused .badParam)
        ∧ (∀ k : ParkNo, bits p.p0 0 16 ≤ 1023 → bits p.p1 0 8 = k.val → s.deng.parks.get k = none →
          exec .retrieve s = refused .parkEmpty))
    ∧ (Served 0x0B n s → ∀ e,
        pageRefusal (bits p.p0 0 8) (bits p.p1 0 2) (bits p.p1 8 8) (bits p.p2 0 8) (bits p.p3 0 16) (bits p.p3 16 8) s = some e →
        exec .pageStart s = refused e)
    ∧ (Served 0x0C n s → (15 < bits p.p0 0 8 → exec .pageEnd s = refused .badParam)
        ∧ ∀ k : PageNo, bits p.p0 0 8 = k.val →
          (s.pctl.pages.get k = none → exec .pageEnd s = refused .nothing)
          ∧ ∀ x, s.pctl.pages.get k = some x →
            (∀ g, x.origin = .group g → exec .pageEnd s = refused .notPermitted)
            ∧ ((∀ g, x.origin ≠ .group g) → x.endCause ≠ none → x.state = .releasing →
              exec .pageEnd s = .next (finishSlot n ⟨.nothing, packed [(4, 0)], 0⟩ (pointed n s))))

/-! ### Hunting -/

/-- Selection (R27): from the eligible positions outside the tried set LINEAR takes the lowest, CIRCULAR the first after the hunt
pointer, LONGEST_IDLE the one whose line stands earliest in the Idle Order, ALL_RING all; when every eligible position is tried
the tried set is cleared and the position that failed last is left out unless it is the only one; with none eligible nothing is
selected. -/
def Obligations.SelectionByMode : Prop :=
  ∀ (g : GroupNo) (tried : List MemberPos) (s : State), idleOrderSound s →
    let h := s.deng.groups.get g
    let out := select [] g tried s
    let from_ : MemberPos → Prop := fun i => eligibleAt g i s = true
      ∧ (if ∃ j, eligibleAt g j s = true ∧ j ∉ tried then i ∉ tried
        else some i ≠ tried.head? ∨ ∀ j, eligibleAt g j s = true → j = i)
    (out.2 = true ↔ (∃ i, eligibleAt g i s = true) ∧ ∀ i, eligibleAt g i s = true → i ∈ tried)
    ∧ (out.1 = [] ↔ ∀ i, eligibleAt g i s = false)
    ∧ (h.config.mode = .linear → ∀ i, out.1 = [i] ↔ from_ i ∧ ∀ j, from_ j → i ≤ j)
    ∧ (h.config.mode = .circular → ∀ i, out.1 = [i] ↔
        from_ i ∧ ∀ j, from_ j → (i - h.huntPointer - 1).val ≤ (j - h.huntPointer - 1).val)
    ∧ (h.config.mode = .longestIdle → ∀ i, out.1 = [i] ↔
        from_ i ∧ ∀ j, from_ j → s.lmon.idleOrder.idxOf (h.members.get i).line
          ≤ s.lmon.idleOrder.idxOf (h.members.get j).line)
    ∧ (h.config.mode = .allRing → (∀ i, i ∈ out.1 ↔ from_ i) ∧ out.1.Pairwise (· < ·))

/-- HUNT of a valid new call to a DAY group whose selection is not empty (R47, R37, R29, R28): the call joins the Presentation Order at
its tail, OFFERED, with a reservation of every selected position's line, in line order, each with its confirm timer; OFFER is raised
for each position in position order, one in the single modes and every one in ALL_RING; in CIRCULAR mode the hunt pointer moves to the
position; the slot is DONE with OFFERED, the group, the number of lines and the lowest position's line. Nothing else changes. The
group has no floor-ring target. -/
def Obligations.HuntOffers : Prop :=
  ∀ (n : SlotNo) (s : State) (g : GroupNo) (i : MemberPos) (more : List MemberPos) (caller : Option LineNo),
    Served 0x01 n s →
    let p := (s.rqu.slots.get n).snapshot
    let r : CallRef := BitVec.ofNat 16 (bits p.p0 0 16)
    let h := s.deng.groups.get g
    let line := fun j => (h.members.get j).line
    let lines := (i :: more).map line
    r ≠ 0 → bits p.p1 0 8 = g.val →
    (if p.p2.getLsbD 31 = true then ∃ k : LineNo, caller = some k ∧ bits p.p2 0 16 = k.val else caller = none) →
    refHeld r s = false → s.deng.calls.length < 128 → h.night = false → FloorOff g s →
    (select [] g [] s).1 = i :: more →
    let c : CallRecord :=
      { ref := r, state := .offered, ringing := []
        reservations := ((List.finRange 1024).filter (· ∈ lines)).map fun l => ⟨l, s.ptu.clock + s.deng.confirmWindow⟩
        hunt := some
          { group := g, hops := 0, priority := Fin.ofNat 4 (bits p.p1 16 2), caller := caller, tried := []
            floorFlag := h.config.floorDelay = 0, noAnswerAt := none
            overflowAt := if h.config.overflowTarget.isSome ∧ h.config.overflowWait ≠ 0 then
              some (s.ptu.clock + 1000 * h.config.overflowWait) else none
            floorAt := if h.config.floorDelay = 0 then none else some (s.ptu.clock + 1000 * h.config.floorDelay) } }
    exec .hunt s = .next
      (finishSlot n ⟨.ok, packed [(1, 0), (g.val, 8), (0, 16), (lines.length, 24)], packed [((line i).val, 0)]⟩
        (outcome (reserved lines r s) (s.deng.calls ++ [c])
          (if h.config.mode = .circular then putAt s.deng.groups g { h with huntPointer := i } else s.deng.groups)
          (lines.map fun l => .offer g r l) (pointed n s)))

/-- HUNT of a valid new call to a group that cannot offer it and whose queue has room (R37, R38, R47): in NIGHT without an overflow
target, or in DAY with no eligible position, the call joins the Presentation Order QUEUED, at the place its priority gives it in
the queue; QUEUED is raised with that place, and the slot is DONE with QUEUED. Nothing else changes. The group has no floor-ring
target. The place of a call in a queue is one more than the number of calls there of higher priority, or of equal priority and
earlier in the Presentation Order. -/
def Obligations.HuntQueues : Prop :=
  (∀ (n : SlotNo) (s : State) (g : GroupNo) (caller : Option LineNo),
    Served 0x01 n s →
    let p := (s.rqu.slots.get n).snapshot
    let r : CallRef := BitVec.ofNat 16 (bits p.p0 0 16)
    let priority : Fin 4 := Fin.ofNat 4 (bits p.p1 16 2)
    r ≠ 0 → bits p.p1 0 8 = g.val →
    (if p.p2.getLsbD 31 = true then ∃ k : LineNo, caller = some k ∧ bits p.p2 0 16 = k.val else caller = none) →
    refHeld r s = false → s.deng.calls.length < 128 → FloorOff g s → CanOnlyQueue g s →
    let place := ((queueOf g s).filter fun c => priority.val ≤ callPriority c).length + 1
    let c : CallRecord :=
      { ref := r, state := .queued, ringing := [], reservations := []
        hunt := some (arrived g 0 ⟨g, 0, priority, caller, [], false, none, none, none⟩ s) }
    exec .hunt s = .next
      (finishSlot n ⟨.ok, packed [(2, 0), (g.val, 8), (0, 16)], packed [(place, 0)]⟩
        (raiseNotice (.queued g place r)
          { pointed n s with deng := { s.deng with calls := s.deng.calls ++ [c] } })))
  ∧ (∀ (s : State) (before after : List CallRecord) (c : CallRecord) (h : HuntPart),
    s.deng.calls = before ++ c :: after → (∀ q ∈ before ++ after, q.ref ≠ c.ref) → c.state = .queued → c.hunt = some h →
    let waits := fun (least : Nat) (q : CallRecord) => q.state = .queued && least ≤ callPriority q
      && (match q.hunt with | some k => k.group = h.group | none => false)
    queuePosition c.ref h.group s
      = (before.filter (waits h.priority.val)).length + (after.filter (waits (h.priority.val + 1))).length + 1)

/-- HUNT of a valid new call that its group neither offers nor queues. Turned away at once: GROUP_BUSY with the group, and nothing
else changes (R37, R47). Overflowing: OVERFLOW with hop 1, and then at the target QUEUED with that hop (R43, R38), or turned away:
DEFLECTED with the group, hop 1 and NO_TARGET, the call record free again and no DEFLECT raised (R44, R47). A NIGHT group that is
its own overflow target takes the call through four hops, and then DEFLECTED with HOPS (R43, R44). The groups have no floor-ring
target. -/
def Obligations.HuntEnds : Prop :=
  ∀ (n : SlotNo) (s : State) (g : GroupNo) (caller : Option LineNo),
    Served 0x01 n s →
    let p := (s.rqu.slots.get n).snapshot
    let r : CallRef := BitVec.ofNat 16 (bits p.p0 0 16)
    let priority : Fin 4 := Fin.ofNat 4 (bits p.p1 16 2)
    r ≠ 0 → bits p.p1 0 8 = g.val →
    (if p.p2.getLsbD 31 = true then ∃ k : LineNo, caller = some k ∧ bits p.p2 0 16 = k.val else caller = none) →
    refHeld r s = false → s.deng.calls.length < 128 → FloorOff g s →
    (TurnsAway g s →
      exec .hunt s = .next (finishSlot n ⟨.groupBusy, packed [(g.val, 8)], 0⟩ (pointed n s)))
    ∧ (∀ t : GroupNo, Overflows g t s → FloorOff t s →
      (CanOnlyQueue t s →
        let place := ((queueOf t s).filter fun c => priority.val ≤ callPriority c).length + 1
        let c : CallRecord :=
          { ref := r, state := .queued, ringing := [], reservations := []
            hunt := some (arrived t 1 ⟨g, 0, priority, caller, [], false, none, none, none⟩ s) }
        exec .hunt s = .next
          (finishSlot n ⟨.ok, packed [(2, 0), (t.val, 8), (1, 16)], packed [(place, 0)]⟩
            (raiseAll [.overflow g t 1 r, .queued t place r]
              { pointed n s with deng := { s.deng with calls := s.deng.calls ++ [c] } })))
      ∧ (TurnsAway t s →
        exec .hunt s = .next (finishSlot n ⟨.deflected, packed [(t.val, 8), (1, 16), (2, 30)], 0⟩
          (raiseNotice (.overflow g t 1 r) (pointed n s))))
      ∧ (t = g → (s.deng.groups.get g).night = true →
        exec .hunt s = .next (finishSlot n ⟨.deflected, packed [(g.val, 8), (4, 16), (1, 30)], 0⟩
          (raiseAll ([1, 2, 3, 4].map fun k => .overflow g g k r) (pointed n s)))))

/-- CANCEL (R19, R70): a call record in use is freed, with the reference and kind TRACKED in the result; WITHDRAW (CANCELLED) is
raised for each ringing line in order and then for each reservation, before any other notice, its reservations leave the line shadows,
and no line's state changes. When its freeing starts nothing else, nothing else changes; when no group has a floor-ring target, no page, park or zone
changes with it. A parked reference frees its slot, kind PARKED. -/
def Obligations.CancelFrees : Prop :=
  ∀ (n : SlotNo) (s : State), Served 0x02 n s →
    let r : CallRef := BitVec.ofNat 16 (bits (s.rqu.slots.get n).snapshot.p0 0 16)
    r ≠ 0 →
    (∀ c, findCall r s = some c →
      (∃ t, exec .cancel s = .next t ∧ CallFreed .cancelled c s t
        ∧ ((∀ g, FloorOff g s) → t.deng.parks = s.deng.parks ∧ t.pctl = s.pctl ∧ t.ctp = s.ctp ∧ t.amon = s.amon
            ∧ t.zos = s.zos)
        ∧ t.rqu = (finishSlot n ⟨.ok, packed [(r.toNat, 0), (1, 16)], 0⟩ (pointed n s)).rqu)
      ∧ (FreesAlone c s → exec .cancel s = .next
          (finishSlot n ⟨.ok, packed [(r.toNat, 0), (1, 16)], 0⟩ (freed .cancelled c (pointed n s)))))
    ∧ (∀ k, findCall r s = none → parkedAs r s = some k →
        exec .cancel s = .next (finishSlot n ⟨.ok, packed [(r.toNat, 0), (2, 16)], 0⟩ (freePark k (pointed n s))))

/-- SIGN_IN and SIGN_OUT (R48): BAD_PARAM for a group or line out of range, NOT_MEMBER for a line that is no effective member, else
OK with the position and the state it had. SIGN_IN signs the position in, sets its count to 0, and runs the arbitration for the
line when the position was signed out and is now eligible. SIGN_OUT signs it out and changes nothing else. -/
def Obligations.SignInAndOut : Prop :=
  ∀ (n : SlotNo) (s : State) (code : Nat) (c : Instr), (code = 0x03 ∧ c = .signIn) ∨ (code = 0x04 ∧ c = .signOut) →
    Served code n s →
    let p := (s.rqu.slots.get n).snapshot
    (63 < bits p.p0 0 8 ∨ 1023 < bits p.p1 0 16 →
      exec c s = .next (finishSlot n ⟨.badParam, 0, 0⟩ (pointed n s)))
    ∧ (∀ (g : GroupNo) (l : LineNo), bits p.p0 0 8 = g.val → bits p.p1 0 16 = l.val →
        let h := s.deng.groups.get g
        ((∀ i, isEffective h i = true → (h.members.get i).line ≠ l) →
          exec c s = .next (finishSlot n ⟨.notMember, 0, 0⟩ (pointed n s)))
        ∧ (∀ i, isEffective h i = true → (h.members.get i).line = l →
            let was := (h.members.get i).signedIn
            let reply : Reply := ⟨.ok, packed [(i.val, 0), (if was then 1 else 0, 8)], 0⟩
            let signed := modMember g i (fun m => { m with signedIn := true, noAnswers := 0 }) (pointed n s)
            (c = .signIn → exec c s = .next
              (finishSlot n reply (if was = false ∧ eligibleAt g i signed = true then arbitrate l signed else signed)))
            ∧ (c = .signOut → exec c s = .next
              (finishSlot n reply (modMember g i (fun m => { m with signedIn := false }) (pointed n s))))))

/-- SET_NIGHT and SET_DAY (R49): BAD_PARAM for a group above 63, else OK with the state before. They change nothing when the
group is in the state named. Otherwise the group changes state and its floor condition is evaluated; SET_DAY then runs the
arbitration for the line of each eligible position in position order. (What the evaluation finds and does: FloorPages.) -/
def Obligations.ServiceStateSet : Prop :=
  ∀ (n : SlotNo) (s : State),
    (63 < bits (s.rqu.slots.get n).snapshot.p0 0 8 → ∀ c, (Served 0x05 n s ∧ c = .setNight) ∨ (Served 0x06 n s ∧ c = .setDay) →
      exec c s = .next (finishSlot n ⟨.badParam, 0, 0⟩ (pointed n s)))
    ∧ ∀ g : GroupNo, bits (s.rqu.slots.get n).snapshot.p0 0 8 = g.val →
      let night := (s.deng.groups.get g).night
      let reply : Reply := ⟨.ok, packed [(if night then 1 else 0, 0)], 0⟩
      let set := fun b => evalFloor g (modGroup g (fun h => { h with night := b }) (pointed n s))
      (Served 0x05 n s →
        exec .setNight s = .next (finishSlot n reply (if night = true then pointed n s else set true)))
      ∧ (Served 0x06 n s →
        exec .setDay s = .next (finishSlot n reply (if night = false then pointed n s else
          ((List.finRange 32).filter fun i => eligibleAt g i (set false)).foldl
            (fun u i => arbitrate ((u.deng.groups.get g).members.get i).line u) (set false))))

/-! ### Pickup and parking -/

/-- GROUP_PICKUP takes the first candidate of the Presentation Order, ringing (R54) or queued (R55), and claims it (R56, R58): the
record is gone, the result names it, no word of the processor's changes, and, when no group has a floor-ring target, no page, park
or zone changes; when its freeing starts nothing else, WITHDRAW (PICKED) for its lines is all that happens beside. DIRECTED_PICKUP
claims the call ringing at the target when the target may be picked up and the requester may pick it up, and gives NOTHING or
NOT_PERMITTED otherwise (R57). WITHDRAW (PICKED) comes before any other notice, and the call's lines are no longer reserved for it. -/
def Obligations.PickupsClaim : Prop :=
  ∀ (n : SlotNo) (s : State) (r : LineNo), bits (s.rqu.slots.get n).snapshot.p0 0 16 = r.val →
    let claimed := fun (c : CallRecord) (t : State) (reply : Reply) =>
      CallFreed .picked c s t
        ∧ ((∀ g, FloorOff g s) → t.deng.parks = s.deng.parks ∧ t.pctl = s.pctl ∧ t.ctp = s.ctp ∧ t.amon = s.amon
            ∧ t.zos = s.zos)
        ∧ t.rqu = (finishSlot n reply (pointed n s)).rqu
        ∧ (FreesAlone c s → t = finishSlot n reply (freed .picked c (pointed n s)))
    (Served 0x07 n s → (s.lmon.shadows.get r).pickup ≠ 0 → referencesSound s →
      ∀ (before after : List CallRecord) (c : CallRecord), s.deng.calls = before ++ c :: after →
        (∀ b ∈ before, ¬ RingsInReach r b s ∧ ¬ QueuesInReach r b s) →
        (RingsInReach r c s → ∀ e es, c.ringing = e :: es →
          ∃ t, exec .groupPickup s = .next t
            ∧ claimed c t ⟨.ok, packed [(c.ref.toNat, 0), (1, 16)], packed [(e.line.val, 0)]⟩)
        ∧ (∀ h, QueuesInReach r c s → c.hunt = some h →
          ∃ t, exec .groupPickup s = .next t
            ∧ claimed c t ⟨.ok, packed [(c.ref.toNat, 0), (2, 16)], packed [(h.group.val, 0)]⟩))
    ∧ (∀ k : LineNo, Served 0x08 n s → bits (s.rqu.slots.get n).snapshot.p1 0 16 = k.val →
      let nothing := Host.Outcome.next (φ := Fault) (ρ := Refusal) (finishSlot n ⟨.nothing, 0, 0⟩ (pointed n s))
      let refused := Host.Outcome.next (φ := Fault) (ρ := Refusal) (finishSlot n ⟨.notPermitted, 0, 0⟩ (pointed n s))
      let sr := s.lmon.shadows.get r
      let sk := s.lmon.shadows.get k
      (ringingCall k s = none → exec .directedPickup s = nothing)
      ∧ (∀ c, ringingCall k s = some c →
          if k = r ∨ (∃ e ∈ c.ringing, e.line = r) ∨ sr.state = .ringing c.ref ∨ sr.reservation = some c.ref
            ∨ callerOf c = some r then exec .directedPickup s = nothing
          else if sk.noPickupFrom = true then exec .directedPickup s = refused
          else if sr.directedAny = true ∨ (sr.pickup ≠ 0 ∧ sk.pickup ≠ 0
            ∧ (sk.pickup = sr.pickup ∨ (s.deng.permissions.get sr.pickup).getLsbD sk.pickup.val = true)) then
            referencesSound s → ∃ t, exec .directedPickup s = .next t
              ∧ claimed c t ⟨.ok, packed [(c.ref.toNat, 0), (1, 16)], packed [(k.val, 0)]⟩
          else exec .directedPickup s = refused))

/-- PARK of a reference nothing holds, in an empty slot named or in the lowest empty slot with ANY (R62, R63): the slot holds the
reference, the lines as given and its timer; with no page asked for the outcome is NONE, with a page that PCTL refuses it is REFUSED
with PCTL's code (R93, R95) and the park stands without a page, and nothing else changes; with a page that PCTL makes, in the lowest
free record with the fixed parameters of R64, it is MADE and the slot names the page, recorded before the page's acquisition pass,
so that a page that ends within its own pass clears it again (R65; the moment of recording is read from R63 to R65, log entry 24).
-/
def Obligations.ParkFills : Prop :=
  ∀ (n : SlotNo) (s : State) (k : ParkNo) (parker held : Option LineNo), Served 0x09 n s →
    let p := (s.rqu.slots.get n).snapshot
    let r : CallRef := BitVec.ofNat 16 (bits p.p0 0 16)
    r ≠ 0 → refHeld r s = false → s.deng.parks.get k = none →
    (bits p.p2 0 8 = k.val ∨ (bits p.p2 0 8 = 0xFF ∧ ∀ j < k, s.deng.parks.get j ≠ none)) →
    (if p.p1.getLsbD 15 = true then ∃ l : LineNo, parker = some l ∧ bits p.p1 0 12 = l.val else parker = none) →
    (if p.p1.getLsbD 31 = true then ∃ l : LineNo, held = some l ∧ bits p.p1 16 12 = l.val else held = none) →
    let filled := fun (page : Option PageNo) => putPark k
      (some ⟨r, parker, held, s.ptu.clock + 1000 * s.deng.parkTime, page⟩) (pointed n s)
    let tone := p.p3.getLsbD 8
    let refusal := pageRefusal (bits p.p3 0 8) (if tone = true then 3 else 2) (bits p.p3 16 8) (bits p.p3 24 8) 0 0 s
    (p.p2.getLsbD 31 = false → exec .park s = .next (finishSlot n ⟨.ok, packed [(k.val, 0)], 0⟩ (filled none)))
    ∧ (∀ e, p.p2.getLsbD 31 = true → refusal = some e →
        exec .park s = .next
          (finishSlot n ⟨.ok, packed [(k.val, 0), (2, 8), (resultValue e, 24)], 0⟩ (filled none)))
    ∧ (∀ page : PageNo, p.p2.getLsbD 31 = true → refusal = none → s.pctl.pages.get page = none →
        (∀ q < page, s.pctl.pages.get q ≠ none) →
        let made : PageRec :=
          { origin := .park k, target := Fin.ofNat 32 (bits p.p3 0 8)
            source := if tone = true then .tone (Fin.ofNat 16 (bits p.p3 16 8)) else .clip (Fin.ofNat 64 (bits p.p3 16 8))
            priority := .normal, policy := .partialZones, preamble := Fin.ofNat 16 (bits p.p3 24 8), trim := 0, state := .pending
            wasActive := false, wanted := [], endCause := none, maxDuration := 0, maxAt := none, waitLimit := 0, waitAt := none }
        exec .park s = .next
          (finishSlot n ⟨.ok, packed [(k.val, 0), (1, 8), (page.val, 16)], 0⟩
            (makeAccepted page made (filled (some page)))))

/-- RETRIEVE by a line other than the held party gives the reference and the held party and empties the slot (R67);
PARK_TIMER_EXPIRY, when the timer has run out, raises PARK_RECALL and empties the slot (R68). Without a linked page nothing else
changes; with one, the page of the slot's origin that has no end cause takes the end cause LINKED (R66). -/
def Obligations.ParkFreed : Prop :=
  ∀ (k : ParkNo) (s : State) (x : Park), s.deng.parks.get k = some x →
    let freed := fun u : State => putPark k none
      (if x.page = none then u else match unendedPage (.park k) u with
        | some page => endPage page .linked u
        | none => u)
    (∀ (n : SlotNo) (r : LineNo), Served 0x0A n s → bits (s.rqu.slots.get n).snapshot.p0 0 16 = r.val →
        bits (s.rqu.slots.get n).snapshot.p1 0 8 = k.val → x.held ≠ some r →
        exec .retrieve s = .next (finishSlot n
          ⟨.ok, packed [(x.ref.toNat, 0)], match x.held with | some l => packed [(l.val, 0), (1, 31)] | none => 0⟩
          (freed (pointed n s))))
    ∧ (∀ (n : SlotNo) (r : LineNo), Served 0x0A n s → bits (s.rqu.slots.get n).snapshot.p0 0 16 = r.val →
        bits (s.rqu.slots.get n).snapshot.p1 0 8 = k.val → x.held = some r →
        exec .retrieve s = .next (finishSlot n ⟨.notPermitted, 0, 0⟩ (pointed n s)))
    ∧ (x.expiry ≤ s.ptu.clock →
        exec (.parkTimerExpiry k) s = .next (freed (raiseNotice (.parkRecall k x.ref x.parker x.held) s)))

/-! ### Call timers -/

/-- CONFIRM_TIMER_EXPIRY of a reservation whose window has run out (R31): the reservation leaves the shadow and the call together,
OFFER_LAPSED (WINDOW) is raised, the line's position joins the tried set as the one that failed last, and then the line is
arbitrated (R41). A call that still has a ringing line or a reservation keeps its state and nothing else changes; outside ALL_RING,
with no other HUNT record in use, the arbitration does nothing either. An OFFERED call that has lost its last reservation re-hunts
behind the arbitration (R32): it is offered to the positions selected then, queues, overflows or is deflected. What the arbitration
does is ArbitrationGives, what is selected SelectionByMode. (That such a call always re-hunts, in an ALL_RING group too, and is not
joined by its own line in the arbitration before, is the model's inference: R36 read by the call's state alone would join the line to it
again. Log entry 32.) -/
def Obligations.ConfirmTimerExpires : Prop :=
  ∀ (l : LineNo) (s : State) (c : CallRecord) (h : HuntPart) (e : Nat), (s.lmon.shadows.get l).reservation = some c.ref →
    findCall c.ref s = some c → c.hunt = some h → ⟨l, e⟩ ∈ c.reservations → e ≤ s.ptu.clock →
    (∀ d ∈ s.deng.calls, d.ref = c.ref → d = c) →
    let tried := match posOf (s.deng.groups.get h.group) l with
      | some i => i :: h.tried.filter (· ≠ i)
      | none => h.tried
    let lapsed : HuntPart := { h with tried := tried }
    let c1 : CallRecord := { c with reservations := c.reservations.filter (·.line ≠ l), hunt := some lapsed }
    let u := raiseNotice (.offerLapsed h.group .window c.ref l)
      { modShadow l (fun x => { x with reservation := none }) s with
        deng := { s.deng with calls := replaced c.ref c1 s } }
    (c1.ringing ≠ [] ∨ c1.reservations ≠ [] → exec (.confirmTimerExpiry l) s = .next (arbitrate l u))
    ∧ (c.state = .ringing → c.ringing ≠ [] → (s.deng.groups.get h.group).config.mode ≠ .allRing → Alone c.ref s →
        exec (.confirmTimerExpiry l) s = .next u)
    ∧ (c.state = .offered → c1.ringing = [] → c1.reservations = [] →
        ∃ t, exec (.confirmTimerExpiry l) s = .next t ∧ Rehunted c1 lapsed (arbitrate l u) t)

/-- NO_ANSWER_TIMER_EXPIRY in an ALL_RING group without an overflow target starts the timer again with the group's ring time, or
stops it when that is 0, and changes nothing else; with a target the call overflows, all its lines and reservations withdrawn with
OVERFLOW, or is deflected at four hops (R35, R43). In another group that can offer nothing and whose queue has room (R33, R34,
R32, R38): WITHDRAW (NO_ANSWER) for every ringing line, the count of each offered member raised, up to 7, and the member signed
out with its count at 0 and MEMBER_OUT when it reaches the group's auto sign-out count; then WITHDRAW for every reservation, which is
dropped; the positions of the offered members and of the reserved members are tried, the last one as the one that failed last; and the
call is QUEUED. No line's state changes. The group has no floor-ring target, and no arbitration takes a reserved line: there is none,
or the call is the only HUNT record and its group is NIGHT or has none of them as a member. (When the reserved lines are withdrawn and
arbitrated: log entries 23 and 33. That every WITHDRAW of the ringing set comes before any count, sign-out or tried position: log
entry 30. That a withdrawal which finds the count at 7 and leaves it there counts as a rise, so that it signs the member out too, is
the model's choice: log entry 42.) -/
def Obligations.NoAnswerExpires : Prop :=
  ∀ (s : State) (c : CallRecord) (h : HuntPart) (e : Nat), findCall c.ref s = some c → c.hunt = some h →
    h.noAnswerAt = some e → e ≤ s.ptu.clock →
    let g := s.deng.groups.get h.group
    (g.config.mode = .allRing → g.config.overflowTarget = none →
      exec (.noAnswerTimerExpiry c.ref) s = .next
        (modCall c.ref (fun d => { d with hunt := d.hunt.map fun x => { x with
          noAnswerAt := if g.config.ringTime = 0 then none else some (s.ptu.clock + 1000 * g.config.ringTime) } }) s))
    ∧ (∀ x : GroupNo, g.config.mode = .allRing → g.config.overflowTarget = some x →
      ∃ t, exec (.noAnswerTimerExpiry c.ref) s = .next t ∧ Overflown c h x s t)
    ∧ (g.config.mode ≠ .allRing → (∀ d ∈ s.deng.calls, d.ref = c.ref → d = c) → FloorOff h.group s →
        CanOnlyQueue h.group s → (c.ringing.map (·.line)).Nodup →
        c.reservations = [] ∨ Alone c.ref s ∧ (g.night = true ∨ ∀ x ∈ c.reservations, posOf g x.line = none) →
        let lines := c.reservations.map (·.line)
        let offered := (c.ringing.filter (·.offered)).filterMap fun x => posOf g x.line
        let failed := offered ++ lines.filterMap (posOf g)
        let count := fun i => min 7 ((g.members.get i).noAnswers + 1)
        let out := fun i : MemberPos => decide (g.config.autoSignOut ≠ 0 ∧ g.config.autoSignOut ≤ count i)
        let c1 : CallRecord := { c with
          state := .queued, ringing := [], reservations := []
          hunt := some { h with
            noAnswerAt := none, tried := failed.foldl (fun tried i => i :: tried.filter (· ≠ i)) h.tried } }
        let place := queuePosition c.ref h.group { s with deng := { s.deng with calls := replaced c.ref c1 s } }
        exec (.noAnswerTimerExpiry c.ref) s = .next (outcome (unreserved lines s) (replaced c.ref c1 s)
          (putAt s.deng.groups h.group { g with
            members := Vector.ofFn fun i =>
              let m := g.members.get i
              if i ∈ offered then
                if out i = true then { m with signedIn := false, noAnswers := 0 } else { m with noAnswers := count i }
              else m })
          ((c.ringing.map fun x => .withdraw .noAnswer c.ref x.line)
            ++ ((offered.filter out).map fun i => .memberOut h.group i (g.members.get i).line)
            ++ (lines.map fun l => .withdraw .noAnswer c.ref l) ++ [.queued h.group place c.ref]) s))

/-- OVERFLOW_WAIT_EXPIRY (R42, R43, R37, R38): a call with fewer than four hops, QUEUED, OFFERED or RINGING, leaves its group with
WITHDRAW (OVERFLOW) for its ringing lines and its reservations, OVERFLOW with one hop more, and arrives at its group's overflow
target, where it is QUEUED when the target cannot offer it and has room. With four hops it is deflected instead: WITHDRAW (DEFLECTED)
for its lines, DEFLECT with HOPS, and its record is free (R44). When the target has been removed the timer only stops.
FLOOR_DELAY_EXPIRY sets the call's floor flag and evaluates the group's floor condition (R45), as FloorPages says. In the first two clauses no group
concerned has a floor-ring target, and no arbitration takes a line the call lets go. -/
def Obligations.CallTimersExpire : Prop :=
  ∀ (s : State) (c : CallRecord) (h : HuntPart) (e : Nat), findCall c.ref s = some c → c.hunt = some h → e ≤ s.ptu.clock →
    (∀ g : GroupNo, h.overflowAt = some e → (s.deng.groups.get h.group).config.overflowTarget = some g →
      ∃ t, exec (.overflowWaitExpiry c.ref) s = .next t ∧ Overflown c h g s t)
    ∧ (h.overflowAt = some e → (s.deng.groups.get h.group).config.overflowTarget = none →
        exec (.overflowWaitExpiry c.ref) s = .next
          (modCall c.ref (fun d => { d with hunt := d.hunt.map fun x => { x with overflowAt := none } }) s))
    ∧ (h.floorAt = some e →
        exec (.floorDelayExpiry c.ref) s = .next (evalFloor h.group
          (modCall c.ref (fun d => { d with hunt := d.hunt.map fun x => { x with
            floorAt := none, floorFlag := true } }) s)))

/-! ### Pages -/

/-- PAGE_START of a request that is accepted, among pages that can take nothing themselves (R73, R77, R79 to R82, R87 to R89, R93).
The page is made in the lowest free record, at the tail of the Page Order. PARTIAL takes every wanted zone that is free or held by a
lower priority, ALL_OR_WAIT all of them or none. A preempted holder loses the zone with ZONE_LOST (PREEMPTED) unless it was letting
it go, and keeps its state. With no zone the page waits PENDING; with one it goes to PREAMBLE for a pattern that is not empty, else
to ACTIVE, its source started and its maximum duration running. A taken zone's FIFO is empty and its overrun mark clear, its noise
estimate is frozen for NORMAL and above (R124), its gain is kept, or GMAX for EMERGENCY (R137), its target gain is that of the page
(R135), and its ramp timer keeps its expiry, starts or stops (R138). The notices are PAGE_STATE
(PENDING), the zones lost, and PREAMBLE or ACTIVE; the slot is DONE with the page, its state and the number of zones held. -/
def Obligations.PageStarts : Prop :=
  ∀ (n : SlotNo) (s : State) (p : PageNo) (x : TargetNo) (src : PageSource) (pr : PagePriority) (b : PatternNo),
    Served 0x0B n s → Settled s → s.pctl.pages.get p = none → (∀ q < p, s.pctl.pages.get q ≠ none) →
    let w := (s.rqu.slots.get n).snapshot
    let nonEmpty := fun t : PatternNo => ((s.ctp.patterns.get t).steps.get 0).duration ≠ 0
    bits w.p0 0 8 = x.val → bits w.p0 8 2 = priorityRank pr → bits w.p2 0 8 = b.val → bits w.p3 0 16 ≤ 600 →
    bits w.p3 16 8 ≤ 60 →
    (match src with
      | .live k => bits w.p1 0 2 = 1 ∧ bits w.p1 8 8 = k.val ∧ ∀ q r, s.pctl.pages.get q = some r → r.source ≠ .live k
      | .clip c => bits w.p1 0 2 = 2 ∧ bits w.p1 8 8 = c.val ∧ (s.ctp.directory.get c).blocks ≠ 0
      | .tone t => bits w.p1 0 2 = 3 ∧ bits w.p1 8 8 = t.val ∧ t ≠ 0 ∧ nonEmpty t) →
    (∃ z : ZoneNo, (s.pctl.targets.get x).getLsbD z.val = true ∧ s.pctl.enabled.get z = true) →
    let wanted := (List.finRange 24).filter fun z => (s.pctl.targets.get x).getLsbD z.val && s.pctl.enabled.get z
      && !(pr = .background && (s.amon.get z).window = .loud)
    let obtainable := fun z : ZoneNo => match s.pctl.holders.get z with
      | none => true
      | some h => decide (priorityRank h.priority < priorityRank pr)
    let wait := w.p0.getLsbD 12
    let zs := if wait = true then (if wanted.all obtainable = true then wanted else []) else wanted.filter obtainable
    let trim := (w.p2.extractLsb' 16 5).toInt
    let rec0 : PageRec :=
      { origin := .request, target := x, source := src, priority := pr
        policy := if wait = true then .allOrWait else .partialZones, preamble := b, trim := trim, state := .pending
        wasActive := false, wanted := wanted, endCause := none, maxDuration := bits w.p3 0 16, maxAt := none
        waitLimit := bits w.p3 16 8
        waitAt := if bits w.p3 16 8 = 0 then none else some (s.ptu.clock + 1000 * bits w.p3 16 8) }
    let after := fun v => Notice.pageState p v none .request pr
    let lost := zs.filterMap fun z => match s.pctl.holders.get z with
      | some h => if h.lettingGo = true then none else some (Notice.zoneLost h.page z .preempted (some p))
      | none => none
    ∃ t, exec .pageStart s = .next t
      ∧ t.pctl = { s.pctl with
          pages := t.pctl.pages, pageOrder := s.pctl.pageOrder ++ [p]
          holders := Vector.ofFn fun z => if z ∈ zs then some ⟨p, pr, trim, false⟩ else s.pctl.holders.get z }
      ∧ (∀ q, q ≠ p → t.pctl.pages.get q = s.pctl.pages.get q ∧ t.ctp.contexts.get q = s.ctp.contexts.get q
          ∧ t.ctp.fetches.get q = s.ctp.fetches.get q)
      ∧ (if zs = [] then t.pctl.pages.get p = some rec0 ∧ (t.ctp.contexts.get p).playing = .idle
            ∧ t.ntu = (raiseAll [after .pending] s).ntu
          else t.pctl.pages.get p = some (begun rec0 s).1 ∧ Begins p rec0 s t
            ∧ t.ntu = (raiseAll (after .pending :: lost ++ [after (begun rec0 s).2]) s).ntu)
      ∧ (∀ c : ClipNo, src = .clip c → (t.ctp.contexts.get p).entry = s.ctp.directory.get c)
      ∧ (∀ z : ZoneNo, z ∉ zs → t.zos.zones.get z = s.zos.zones.get z ∧ t.amon.get z = s.amon.get z
          ∧ t.ctp.overrun.get z = s.ctp.overrun.get z)
      ∧ (∀ z : ZoneNo, z ∈ zs → ZoneTaken z ⟨p, pr, trim, false⟩ s t)
      ∧ SameInputs s t ∧ t.ptu = s.ptu ∧ t.lmon = s.lmon ∧ t.deng = s.deng
      ∧ t.rqu = (finishSlot n ⟨.ok, packed [(p.val, 0), (if zs = [] then 1 else if b ≠ 0 ∧ nonEmpty b then 2 else 3, 8),
          (zs.length, 16)], 0⟩ (pointed n s)).rqu

/-- A page that takes an end cause by PAGE_END (R94), by the wait limit of a PENDING page (R87) or by the maximum duration of an
ACTIVE page (R89). Holding no zone it ends at once (R90, R91): the record is free, out of the Page Order, its context idle, its fetch
left to be discarded, and PAGE_STATE (ENDED) carries the cause; no group waits for a record. Holding zones at a gain above 0, alone in
the Page Order, it enters RELEASING and lets every one go (R84). The own end of a park's page clears the slot's link (R65). -/
def Obligations.PageEnds : Prop :=
  ∀ (p : PageNo) (s : State) (r : PageRec), s.pctl.pages.get p = some r → r.endCause = none →
    (heldZones p s = [] → s.pctl.waitList = [] →
      (∀ n, Served 0x0C n s → bits (s.rqu.slots.get n).snapshot.p0 0 8 = p.val → (∀ g, r.origin ≠ .group g) →
        exec .pageEnd s = .next (finishSlot n ⟨.ok, 0, 0⟩ (pageFreed p r .request (pointed n s))))
      ∧ (∀ e, r.state = .pending → r.waitAt = some e → e ≤ s.ptu.clock →
          exec (.waitLimitExpiry p) s = .next (pageFreed p r .waitLimit s))
      ∧ (∀ e, r.state = .active → r.maxAt = some e → e ≤ s.ptu.clock →
          exec (.maxDurationExpiry p) s = .next (pageFreed p r .maxDuration s)))
    ∧ (EndsHolding p r s →
      (∀ n, Served 0x0C n s → bits (s.rqu.slots.get n).snapshot.p0 0 8 = p.val → (∀ g, r.origin ≠ .group g) →
        ∃ t, Released p r .request (pointed n s) t ∧ exec .pageEnd s = .next (finishSlot n ⟨.ok, packed [(4, 0)], 0⟩ t))
      ∧ (∀ e, r.state = .active → r.maxAt = some e → e ≤ s.ptu.clock →
          ∃ t, exec (.maxDurationExpiry p) s = .next t ∧ Released p r .maxDuration s t))

/-- How a page that is alone in the Page Order, and wants no zone it could take, loses zones. A zone that is disabled (R85): freed at
once, with ZONE_LOST (DISABLED) unless it was being let go, the page keeping its state, and its resume timer started unless the
page is BACKGROUND (R124); the write leaves every other field of the record as it was. A zone of a BACKGROUND page that an applied
block makes LOUD (R86, R125, R129), no other zone changing its window state: NOISE_STATE, then ZONE_LOST (LOUD), and the zone is let
go. A write of the page's target (R77, R84): each held zone that leaves the wanted set is let go, with ZONE_LOST
(TARGET) in zone order, and one being let go that comes back is taken back without a notice, the page being in PREAMBLE or ACTIVE.
Gains above 0 are kept, but for GMAX under an EMERGENCY page that takes back; target gain and ramp timer are brought up to date
(R135, R137 to R139). The order of several ZONE_LOST is the model's choice (log entry 34). -/
def Obligations.ZonesLost : Prop :=
  ∀ (p : PageNo) (s : State) (r : PageRec), s.ptu.mode = .ready → s.pctl.pages.get p = some r → s.pctl.pageOrder = [p] →
    r.state = .preamble ∨ r.state = .active → r.wanted = wantedOf r s → (∀ z ∈ r.wanted, z ∈ heldZones p s) →
    (∀ z h, s.pctl.holders.get z = some h → h.page = p → h.priority = r.priority ∧ (h.lettingGo = true ↔ z ∉ r.wanted)) →
    (∀ z ∈ heldZones p s, (s.zos.zones.get z).ga ≠ 0) →
    let goes := fun (keep : List ZoneNo) => Vector.ofFn fun z => (s.pctl.holders.get z).map fun h =>
      if h.page = p then { h with lettingGo := decide (z ∉ keep) } else h
    (∀ (z : ZoneNo) (h : Holder) (d : Word) (be : ByteEnables), PortFree s → s.pctl.holders.get z = some h → h.page = p →
      s.pctl.enabled.get z = true → (s.amon.get z).window = .normal →
      let u := writeTaken (.zone z 0) d be s
      let word := fun i => copyOf (.zone z i) u
      (word 0).getLsbD 0 = false → decodeAmon (word 0) (word 2) (word 3) = (s.amon.get z).fields →
      decodeGain (word 0) (word 1) = (s.zos.zones.get z).gain → amonFaults (word 2) (word 3) = [] →
      gainFaults (word 0) (word 1) = [] →
      ∃ t, exec (.zoneRecordWrite z 0 d be) s = .next t
        ∧ t.pctl = { s.pctl with
            enabled := putAt s.pctl.enabled z false, holders := putAt s.pctl.holders z none
            pages := putAt s.pctl.pages p (some { r with wanted := r.wanted.filter (· ≠ z) }) }
        ∧ t.zos = (zoneLeft z h s).zos ∧ t.ctp = (zoneLeft z h s).ctp
        ∧ (t.amon.get z).freeze = (thawed h (s.amon.get z) s).freeze ∧ (∀ y, y ≠ z → t.amon.get y = s.amon.get y)
        ∧ t.ntu = (raiseAll (if h.lettingGo = true then [] else [.zoneLost p z .disabled none]) s).ntu
        ∧ t.deng = s.deng ∧ t.lmon = s.lmon ∧ t.rqu = s.rqu)
    ∧ (∀ (z : ZoneNo) (order : List ZoneNo), r.priority = .background → z ∈ r.wanted →
      let a := s.amon.get z
      let b := afterBlock a
      BlockApplies a s → a.window = .normal → b.window = .loud →
      (∀ y, y ≠ z → BlockApplies (s.amon.get y) s → (afterBlock (s.amon.get y)).window = (s.amon.get y).window) →
      ∃ t, exec (.blockComplete order) s = .next t
        ∧ t.amon.get z = b
        ∧ t.pctl = { s.pctl with
            pages := putAt s.pctl.pages p (some { r with wanted := r.wanted.filter (· ≠ z) })
            holders := goes (r.wanted.filter (· ≠ z)) }
        ∧ (t.zos.zones.get z).gt = 0 ∧ (t.zos.zones.get z).ga = (s.zos.zones.get z).ga
        ∧ (t.zos.zones.get z).fifo = (s.zos.zones.get z).fifo ∧ (t.zos.zones.get z).rampAt.isSome = true
        ∧ (∀ y, y ≠ z → (BlockApplies (s.amon.get y) s → t.amon.get y = afterBlock (s.amon.get y))
          ∧ Reheard (s.pctl.holders.get y) (s.amon.get y) (t.amon.get y) (s.zos.zones.get y) (t.zos.zones.get y) s)
        ∧ t.ntu = (raiseAll [.noiseState z .normal .loud (b.ne / 16) (some (levelCode (a.blockSum / 1000))),
            .zoneLost p z .loud none] s).ntu
        ∧ SameInputs s t ∧ t.ptu = s.ptu ∧ t.deng = s.deng ∧ t.ctp = s.ctp)
    ∧ (∀ (d : Word) (be : ByteEnables), PortFree s →
      let u := writeTaken (.target r.target) d be s
      let set := (copyOf (.target r.target) u).extractLsb' 0 24
      let wanted := (List.finRange 24).filter fun z => set.getLsbD z.val && s.pctl.enabled.get z
        && !(r.priority = .background && (s.amon.get z).window = .loud)
      (∀ z ∈ wanted, z ∈ heldZones p s) →
      ∃ t, exec (.pageTargetWrite r.target d be) s = .next t
        ∧ t.pctl = { s.pctl with
            targets := putAt s.pctl.targets r.target set
            pages := putAt s.pctl.pages p (some { r with wanted := wanted }), holders := goes wanted }
        ∧ (∀ z h, s.pctl.holders.get z = some h → h.page = p → (z ∈ wanted ↔ z ∉ r.wanted) →
            t.zos.zones.get z = heldStage { h with lettingGo := decide (z ∉ wanted) } (s.amon.get z) (s.zos.zones.get z) s)
        ∧ (∀ z, z ∉ heldZones p s ∨ (z ∈ wanted ↔ z ∈ r.wanted) → t.zos.zones.get z = s.zos.zones.get z)
        ∧ t.ntu = (raiseAll ((r.wanted.filter (· ∉ wanted)).map fun z => .zoneLost p z .target none) s).ntu
        ∧ t.ptu = u.ptu ∧ t.deng = s.deng ∧ t.lmon = s.lmon ∧ t.amon = s.amon ∧ t.ctp = s.ctp ∧ t.rqu = s.rqu)

/-- The floor condition and floor-ring pages. An evaluation finds the condition true exactly when the group has a floor-ring target and
a call of it has its floor flag set, or its queue has reached a queue alarm threshold that is not 0, or it is NIGHT and has a call; found
unchanged it does nothing, turned true it starts the group's page, turned false it ends it (R46). A floor delay that runs out (R45), a
SET_NIGHT of a group with a call (R49), or a HUNT whose call queues and brings the queue to the threshold (R38, R47; QUEUED comes first:
log entry 13) that makes a group's floor condition true (R46, R96), on a part without pages: page 0 is made from the group's shadow, and with wanted zones takes them all and is ACTIVE, its ring pattern played forever, zeros for an empty
pattern; else it waits PENDING. With no record free, or while the group's RELEASING page stands, the group enters the Floor Ring Wait
list at its tail (R96, R97). A CANCEL of a call without lines, the group's last one or one that brings the queue below the threshold, or
a SET_DAY of a group without an eligible member (R49), that makes the condition false: the group leaves the Wait list, or its page,
holding no zone, takes the end cause LINKED and is freed (R97). A page that frees the one free record gives it to the first waiting group that owns no page
(R91, R97); that group's zones are all disabled here. -/
def Obligations.FloorPages : Prop :=
  (∀ (s : State) (g : GroupNo),
    let k := s.deng.groups.get g
    let turned := fun b : Bool => modGroup g (fun h => { h with floorCondition := b }) s
    ((FloorHolds g s.deng.calls k ↔ k.floorCondition = true) → evalFloor g s = s)
    ∧ (FloorHolds g s.deng.calls k → k.floorCondition = false → evalFloor g s = startFloorPage g (turned true))
    ∧ (¬ FloorHolds g s.deng.calls k → k.floorCondition = true → evalFloor g s = endFloorPage g (turned false)))
  ∧ ∀ (s : State) (g : GroupNo) (x : TargetNo), (s.deng.groups.get g).config.floorTarget = some x →
    let k := (s.deng.groups.get g).config
    let zones := (List.finRange 24).filter fun z => (s.pctl.targets.get x).getLsbD z.val && s.pctl.enabled.get z
      && !(k.floorPriority = .background && (s.amon.get z).window = .loud)
    let rec0 : PageRec :=
      { origin := .group g, target := x, source := .tone k.ringPattern, priority := k.floorPriority, policy := .partialZones
        preamble := 0, trim := 0, state := .pending, wasActive := false, wanted := zones, endCause := none, maxDuration := 0
        maxAt := none, waitLimit := 0, waitAt := none }
    let owns := fun h : GroupNo => ∃ q r, s.pctl.pages.get q = some r ∧ r.origin = .group h
    let condition := fun b : Bool => modAt s.deng.groups g fun h => { h with floorCondition := b }
    let inGroup := fun d : CallRecord => ∃ e, d.hunt = some e ∧ e.group = g
    let starts := fun (e : Instr) (deng : Deng) (rqu : Rqu) (ns : List Notice) =>
      (NoPages s →
        let pattern := s.ctp.patterns.get k.ringPattern
        ∃ t, exec e s = .next t ∧ t.deng = deng ∧ t.pctl.pageOrder = [0] ∧ t.pctl.waitList = []
          ∧ (∀ q, q ≠ 0 → t.pctl.pages.get q = none)
          ∧ t.pctl.pages.get 0 = some (if zones = [] then rec0 else { rec0 with state := .active, wasActive := true })
          ∧ (∀ z, t.pctl.holders.get z = if z ∈ zones then some ⟨0, k.floorPriority, 0, false⟩ else none)
          ∧ (t.ctp.contexts.get 0).playing = (if zones = [] then .idle else .tone
              { use := .floorRing, pattern := k.ringPattern, step := 0, current := pattern.steps.get 0
                left := 80 * (pattern.steps.get 0).duration, phase := 0, passes := 0
                silent := (pattern.steps.get 0).duration = 0 })
          ∧ t.ntu = (raiseAll (ns ++ .pageState 0 .pending none (.group g) k.floorPriority ::
              if zones = [] then [] else [.pageState 0 .active none (.group g) k.floorPriority]) s).ntu
          ∧ SameInputs s t ∧ t.ptu = s.ptu ∧ t.lmon = s.lmon ∧ t.rqu = rqu)
      ∧ ((∀ q, s.pctl.pages.get q ≠ none) ∨ owns g →
        exec e s = .next (raiseAll ns { s with
          deng := deng, rqu := rqu
          pctl := { s.pctl with waitList :=
            if g ∈ s.pctl.waitList then s.pctl.waitList else s.pctl.waitList ++ [g] } }))
    let ends := fun (e : Instr) (n : SlotNo) (reply : Reply) (deng : Deng) =>
      ((∀ q r, s.pctl.pages.get q = some r → r.origin = .group g → r.endCause ≠ none) →
        exec e s = .next (finishSlot n reply { pointed n s with
          deng := deng, pctl := { s.pctl with waitList := s.pctl.waitList.erase g } }))
      ∧ (∀ q r, s.pctl.pages.get q = some r → r.origin = .group g → r.endCause = none → heldZones q s = [] →
        s.pctl.waitList = [] →
        (∀ q' r', s.pctl.pages.get q' = some r' → r'.origin = .group g → r'.endCause = none → q' = q) →
        exec e s = .next (finishSlot n reply (pageFreed q r .linked { pointed n s with deng := deng })))
    ((s.deng.groups.get g).floorCondition = false →
      (∀ (c : CallRecord) (h : HuntPart) (e : Nat), findCall c.ref s = some c → c.hunt = some h → h.group = g →
        h.floorAt = some e → e ≤ s.ptu.clock → (∀ d ∈ s.deng.calls, d.ref = c.ref → d = c) →
        starts (.floorDelayExpiry c.ref) { s.deng with
          calls := replaced c.ref { c with hunt := some { h with floorAt := none, floorFlag := true } } s
          groups := condition true } s.rqu [])
      ∧ (∀ n : SlotNo, Served 0x05 n s → bits (s.rqu.slots.get n).snapshot.p0 0 8 = g.val →
        (s.deng.groups.get g).night = false → (∃ d ∈ s.deng.calls, inGroup d) →
        starts .setNight
          { s.deng with groups := modAt s.deng.groups g fun h => { h with night := true, floorCondition := true } }
          (finishSlot n ⟨.ok, packed [(0, 0)], 0⟩ (pointed n s)).rqu [])
      ∧ (∀ (n : SlotNo) (caller : Option LineNo), Served 0x01 n s →
        let p := (s.rqu.slots.get n).snapshot
        let r : CallRef := BitVec.ofNat 16 (bits p.p0 0 16)
        let priority : Fin 4 := Fin.ofNat 4 (bits p.p1 16 2)
        r ≠ 0 → bits p.p1 0 8 = g.val →
        (if p.p2.getLsbD 31 = true then ∃ l : LineNo, caller = some l ∧ bits p.p2 0 16 = l.val else caller = none) →
        refHeld r s = false → s.deng.calls.length < 128 → CanOnlyQueue g s →
        k.alarm ≠ 0 → k.alarm ≤ (queueOf g s).length + 1 →
        let place := ((queueOf g s).filter fun d => priority.val ≤ callPriority d).length + 1
        starts .hunt
          { s.deng with
            calls := s.deng.calls ++ [{ ref := r, state := .queued, ringing := [], reservations := []
                                        hunt := some (arrived g 0 ⟨g, 0, priority, caller, [], false, none, none, none⟩ s) }]
            groups := condition true }
          (finishSlot n ⟨.ok, packed [(2, 0), (g.val, 8), (0, 16)], packed [(place, 0)]⟩ (pointed n s)).rqu
          [.queued g place r]))
    ∧ ((s.deng.groups.get g).floorCondition = true →
      (∀ (n : SlotNo) (c : CallRecord) (h : HuntPart), Served 0x02 n s →
        bits (s.rqu.slots.get n).snapshot.p0 0 16 = c.ref.toNat → c.ref ≠ 0 → findCall c.ref s = some c → c.hunt = some h →
        h.group = g → c.ringing = [] → c.reservations = [] →
        let others := s.deng.calls.filter (·.ref ≠ c.ref)
        ¬ FloorHolds g others (s.deng.groups.get g) →
        ends .cancel n ⟨.ok, packed [(c.ref.toNat, 0), (1, 16)], 0⟩ { s.deng with calls := others, groups := condition false })
      ∧ (∀ n : SlotNo, Served 0x06 n s → bits (s.rqu.slots.get n).snapshot.p0 0 8 = g.val →
        (s.deng.groups.get g).night = true → (∀ i, eligibleAt g i s = false) →
        ¬ FloorHolds g s.deng.calls { s.deng.groups.get g with night := false } →
        ends .setDay n ⟨.ok, packed [(1, 0)], 0⟩
          { s.deng with groups := modAt s.deng.groups g fun h => { h with night := false, floorCondition := false } }))
    ∧ (∀ (n : SlotNo) (p : PageNo) (r : PageRec) (ahead behind : List GroupNo), Served 0x0C n s →
      bits (s.rqu.slots.get n).snapshot.p0 0 8 = p.val → s.pctl.pages.get p = some r → r.origin = .request →
      r.endCause = none → heldZones p s = [] → (∀ q, s.pctl.pages.get q ≠ none) → s.pctl.pageOrder.Nodup →
      s.pctl.waitList = ahead ++ g :: behind → g ∉ ahead → (∀ h ∈ ahead, owns h) → ¬ owns g →
      (∀ z : ZoneNo, (s.pctl.targets.get x).getLsbD z.val = true → s.pctl.enabled.get z = false) →
      (∀ q r', s.pctl.pages.get q = some r' → r'.state ≠ .releasing → zonesToTake r' s = []) →
      let u := pageFreed p r .request (pointed n s)
      exec .pageEnd s = .next (finishSlot n ⟨.ok, 0, 0⟩
        { raiseNotice (.pageState p .pending none (.group g) k.floorPriority) u with
          pctl := { u.pctl with
            pages := putAt u.pctl.pages p (some { rec0 with wanted := [] }), pageOrder := u.pctl.pageOrder ++ [p]
            waitList := ahead ++ behind }
          ctp := { u.ctp with
            contexts := putAt u.ctp.contexts p
              { u.ctp.contexts.get p with entry := ClipEntry.initial, playing := .idle, frameDue := false } } }))

/-! ### Samples -/

/-- SAMPLE_PRODUCE of a tone context (R108 to R111). Unpaced, nothing happens. Paced, the sample at the present phase (0 for a pause
or a silent floor ring) goes to every held zone that has room; within a step the phase advances and one sample fewer is left; at a
step's end the next step begins, taken from the pattern as it stands; after the eighth step, or where the next step or the first
has duration 0, the pass is over. A floor ring begins again, and so does a TONE source whose repeat count asks for a pass of a
pattern that is not empty; any other TONE source ends its page with SOURCE_DONE, unless the page already has an end cause. A preamble
takes a page still in PREAMBLE to ACTIVE, its LIVE or non-empty TONE source started, and no other page. (The pace: log entry 19.
That the end of a pass looks at the next step and step 0 alone: log entry 31. That a floor ring found empty stays silent: log entry
27.) -/
def Obligations.ToneProduces : Prop :=
  ∀ (p : PageNo) (s : State) (c : ToneCtx), (s.ctp.contexts.get p).playing = .tone c →
    let n : Int := c.phase.toNat
    let v : Int := if n ≤ 16383 then n else if n ≤ 49151 then 32768 - n else n - 65536
    let sample : Sample :=
      if c.silent = true ∨ c.current.frequency = 0 then 0 else BitVec.ofInt 16 (scaled v c.current.level)
    let c1 : ToneCtx := { c with
      left := c.left - 1, phase := c.phase + BitVec.ofNat 16 ((c.current.frequency * 8192 + 500) / 1000) }
    let pattern := s.ctp.patterns.get c.pattern
    let pass := fun (use : ToneUse) (t : PatternNo) (passes : Nat) => Playing.tone
      { use := use, pattern := t, step := 0, current := (s.ctp.patterns.get t).steps.get 0
        left := 80 * ((s.ctp.patterns.get t).steps.get 0).duration, phase := 0, passes := passes
        silent := ((s.ctp.patterns.get t).steps.get 0).duration = 0 }
    let gives := fun x : Playing => ∃ t, exec (.sampleProduce p) s = .next t ∧ Delivered p sample x s t
    (¬ Paced p s → exec (.sampleProduce p) s = .next s)
    ∧ (Paced p s →
      (c.silent = true → gives (.tone c))
      ∧ (c.silent = false → 1 < c.left → gives (.tone c1))
      ∧ (∀ k : Fin 8, c.silent = false → c.left ≤ 1 → k.val = c.step.val + 1 → (pattern.steps.get k).duration ≠ 0 →
          (pattern.steps.get 0).duration ≠ 0 →
          gives (.tone { c1 with
            step := k, current := pattern.steps.get k, left := 80 * (pattern.steps.get k).duration }))
      ∧ (c.silent = false → c.left ≤ 1 →
          c.step = 7 ∨ (∃ k : Fin 8, k.val = c.step.val + 1 ∧ (pattern.steps.get k).duration = 0)
            ∨ (pattern.steps.get 0).duration = 0 →
          let again : Prop := (pattern.repeats = 0 ∨ c.passes + 1 < pattern.repeats) ∧ (pattern.steps.get 0).duration ≠ 0
          (c.use = .floorRing → gives (pass .floorRing c.pattern (c.passes + 1)))
          ∧ (c.use = .source → again → gives (pass .source c.pattern (c.passes + 1)))
          ∧ (∀ r, s.pctl.pages.get p = some r → s.ctp.fetches.get p = none →
            (c.use = .source → ¬ again →
              (r.endCause ≠ none → gives .idle)
              ∧ (EndsHolding p r s →
                ∃ u t, exec (.sampleProduce p) s = .next t ∧ Delivered p sample .idle s u ∧ Released p r .sourceDone u t))
            ∧ (c.use = .preamble →
              (r.state ≠ .preamble → gives .idle)
              ∧ (∀ x, r.state = .preamble →
                (match r.source with
                  | .live k => x = .live k
                  | .tone t => (∀ g, r.origin ≠ .group g) ∧ ((s.ctp.patterns.get t).steps.get 0).duration ≠ 0
                      ∧ x = pass .source t 0
                  | .clip _ => False) →
                ∃ u, Delivered p sample x s u ∧ exec (.sampleProduce p) s = .next
                  { raiseNotice (.pageState p .active none r.origin r.priority) u with
                    pctl := { s.pctl with pages := putAt s.pctl.pages p (some { r with
                      state := .active, wasActive := true
                      maxAt := if r.maxDuration = 0 then none else some (s.ptu.clock + 1000 * r.maxDuration) }) } })))))

/-- SAMPLE_PRODUCE of a clip context (R102, R104, R111). Unpaced, or waiting for the playing buffer, nothing happens. Paced, a gap
sample is 0; otherwise the playing buffer's next sample goes to every held zone that has room. After the last sample of a block the
buffer is empty and the other plays; where a block is still to fetch and none is outstanding, it is asked for into the emptied
buffer. After the last sample of a final block the pass is complete: with more passes the gap of gap × 800 samples begins; with none
the context is idle and the page ends with SOURCE_DONE, unless it already has an end cause. (The pace: log entry 19.) -/
def Obligations.ClipProduces : Prop :=
  ∀ (p : PageNo) (s : State) (c : ClipCtx), (s.ctp.contexts.get p).playing = .clip c →
    let e := (s.ctp.contexts.get p).entry
    let playing := if c.playingB = true then c.bufB else c.bufA
    let other := if c.playingB = true then c.bufA else c.bufB
    let refilled := fun (b : Buffer) (x : ClipCtx) => if c.playingB = true then { x with bufB := b } else { x with bufA := b }
    let gives := fun (v : Sample) (x : Playing) => ∃ t, exec (.sampleProduce p) s = .next t ∧ Delivered p v x s t
    let moves := fun (v : Sample) (x : ClipCtx) =>
      (c.toFetch = false ∨ s.ctp.fetches.get p ≠ none → gives v (.clip (refilled .empty x)))
      ∧ (c.toFetch = true → s.ctp.fetches.get p = none → other ≠ .empty →
        ∃ u, Delivered p v (.clip (refilled (.awaiting c.nextBlock) x)) s u
          ∧ exec (.sampleProduce p) s = .next { u with ctp := { u.ctp with
              fetches := putAt s.ctp.fetches p (some
                ⟨c.playingB, c.nextBlock, e.addr + BitVec.ofNat 22 (32 * c.nextBlock), 0, [], false⟩) } })
    (¬ Paced p s → exec (.sampleProduce p) s = .next s)
    ∧ (c.gapLeft = 0 → (∀ i n final v more, playing ≠ .full i n final (v :: more)) → exec (.sampleProduce p) s = .next s)
    ∧ (Paced p s →
      (c.gapLeft ≠ 0 → gives 0 (.clip { c with gapLeft := c.gapLeft - 1 }))
      ∧ (∀ (i n : Nat) (final : Bool) (v : Sample) (more : List Sample), c.gapLeft = 0 →
          playing = .full i n final (v :: more) →
          (more ≠ [] → gives v (.clip (refilled (.full i n final more) c)))
          ∧ (more = [] → final = false → moves v { c with playingB := !c.playingB })
          ∧ (more = [] → final = true →
            (e.repeats = 0 ∨ c.passes + 1 < e.repeats →
              moves v { c with playingB := !c.playingB, passes := c.passes + 1, gapLeft := e.gap * 800 })
            ∧ (∀ r, e.repeats ≠ 0 → e.repeats ≤ c.passes + 1 → s.pctl.pages.get p = some r → s.ctp.fetches.get p = none →
              (r.endCause ≠ none → gives v .idle)
              ∧ (EndsHolding p r s →
                ∃ u t, exec (.sampleProduce p) s = .next t ∧ Delivered p v .idle s u
                  ∧ Released p r .sourceDone u t)))))

/-- BLOCK_FETCH_LANDS with no access waiting (R100, R102 to R104, R179); the port is free. The end of one of a fetch's first three
bursts adds its eight words to the fetch and changes nothing else; the fourth is the landing. A well-formed block's samples, the low
half of each word first, fill the buffer that awaited it. It is final by its flag or as the clip's last, with NO_FINAL where the
flag is clear; a block that is not final sets the next index, and a final one the next pass's block 0, or that nothing is left to
fetch. A block still to fetch is asked for into an empty buffer, the playing one first. A block that is not well-formed raises
CLIP_FORMAT, the context is idle, and the page ends with SOURCE_FAULT unless it already has an end cause. A fetch whose context was
cleared is discarded; a new context's own block is then asked for. (That this row ends the first three bursts too, and that a
burst's words are read at its end: log entry 7; the choices of buffer and moment are read from R102: log entry 22.) -/
def Obligations.BlockLands : Prop :=
  ∀ (p : PageNo) (s : State) (f : Fetch), s.ptu.burst = some (.fetch p) → s.ptu.waiting = [] →
    s.ctp.fetches.get p = some f →
    let words := f.data ++ (List.range 8).map fun i => arrayWord (f.addr + BitVec.ofNat 22 (8 * f.bursts + i)) s
    let e := (s.ctp.contexts.get p).entry
    let landed := fun (x : Playing) (fetch : Option Fetch) (ns : List Notice) => { raiseAll ns s with
      ptu := { s.ptu with burst := none }
      ctp := { s.ctp with
        contexts := putAt s.ctp.contexts p { s.ctp.contexts.get p with playing := x }
        fetches := putAt s.ctp.fetches p fetch } }
    let goesOn := fun (c : ClipCtx) (ns : List Notice) =>
      let ask := fun toB : Bool =>
        some (Fetch.mk toB c.nextBlock (e.addr + BitVec.ofNat 22 (32 * c.nextBlock)) 0 [] false)
      let intoA := landed (.clip { c with bufA := .awaiting c.nextBlock }) (ask false) ns
      let intoB := landed (.clip { c with bufB := .awaiting c.nextBlock }) (ask true) ns
      if c.toFetch = false then landed (.clip c) none ns
      else if c.playingB = true then
        if c.bufB = .empty then intoB else if c.bufA = .empty then intoA else landed (.clip c) none ns
      else if c.bufA = .empty then intoA else if c.bufB = .empty then intoB else landed (.clip c) none ns
    (f.bursts < 3 → exec .blockFetchLands s = .next { s with
      ptu := { s.ptu with burst := none }
      ctp := { s.ctp with
        fetches := putAt s.ctp.fetches p (some { f with bursts := f.bursts + 1, data := words }) } })
    ∧ (∀ (c : ClipCtx) (header : Word) (places : List Word), 3 ≤ f.bursts → f.stale = false →
      (s.ctp.contexts.get p).playing = .clip c → words = header :: places →
      let tag := header.extractLsb' 0 8
      let count := (header.extractLsb' 8 8).toNat
      (tag = 0xA5#8 → 1 ≤ count → count ≤ 62 →
        let last : Bool := e.blocks ≤ f.index + 1
        let final := header.getLsbD 16 || last
        let more : Bool := e.repeats = 0 || c.passes + 1 < e.repeats
        let block : Buffer := .full f.index count final
          ((places.flatMap fun w => [w.extractLsb' 0 16, w.extractLsb' 16 16]).take count)
        exec .blockFetchLands s = .next (goesOn { c with
            bufA := if f.toB = true then c.bufA else block
            bufB := if f.toB = true then block else c.bufB
            nextBlock := if final = true then (if more = true then 0 else c.nextBlock) else f.index + 1
            toFetch := if final = true then more else c.toFetch
            landed := true, underrun := false }
          (if last = true ∧ header.getLsbD 16 = false then [.audioFault p .noFinal c.clip.val f.index] else [])))
      ∧ (tag ≠ 0xA5#8 ∨ count = 0 ∨ 62 < count →
        let u := landed .idle none [.audioFault p .clipFormat c.clip.val f.index]
        let v := { u with ctp := { u.ctp with contexts := putAt u.ctp.contexts p { u.ctp.contexts.get p with frameDue := false } } }
        ∀ r, s.pctl.pages.get p = some r →
          (r.endCause ≠ none → exec .blockFetchLands s = .next v)
          ∧ (EndsHolding p r s → ∃ t, exec .blockFetchLands s = .next t ∧ Released p r .sourceFault v t)))
    ∧ (3 ≤ f.bursts → f.stale = true →
      (∀ c, (s.ctp.contexts.get p).playing = .clip c → exec .blockFetchLands s = .next (goesOn c []))
      ∧ ((∀ c, (s.ctp.contexts.get p).playing ≠ .clip c) →
        exec .blockFetchLands s = .next (landed (s.ctp.contexts.get p).playing none [])))

/-- FRAME_START (R105, R142, R146, R147, R148, R150). The link enables as written act. Each clip page whose first block has landed and
whose player waits for a block being fetched, with an empty FIFO at a zone it holds on an enabled link, raises UNDERRUN once, in page
order. Each held zone on an enabled link whose FIFO is not empty gives its oldest sample, scaled by the gain that stands, and every
other zone 0. A page that feeds no enabled link may produce one sample. Nothing else changes. A link sends its zones' slots in order,
most significant bit first, and the frame pulse is high in bit period 0 of the 128 alone. (That the enables act here and the FIFOs
are looked at before the samples leave: log entries 21 and 30; the page order of UNDERRUN: log entry 35; the allowance of a page
without links: log entry 19; the bit periods: log entry 18.) -/
def Obligations.FrameStarts : Prop :=
  ∀ s : State,
    let linked := fun z : ZoneNo => s.zos.linkEnable.getLsbD (z.val / 8)
    let begins := fun (p : PageNo) (c : ClipCtx) => c.landed && !c.underrun && c.gapLeft == 0
      && (heldZones p s).any fun z => linked z && (s.zos.zones.get z).fifo.isEmpty
    let fault := fun p : PageNo => match (s.ctp.contexts.get p).playing with
      | .clip c => match if c.playingB = true then c.bufB else c.bufA with
        | .awaiting i => if begins p c = true then some (Notice.audioFault p .underrun c.clip.val i) else none
        | _ => none
      | _ => none
    let t := { raiseAll ((List.finRange 16).filterMap fault) s with
      ctp := { s.ctp with contexts := Vector.ofFn fun p =>
        let x := s.ctp.contexts.get p
        { x with
          playing := match x.playing with
            | .clip c => .clip (if (fault p).isSome = true then { c with underrun := true } else c)
            | y => y
          frameDue := (heldZones p s).all fun z => !linked z } }
      zos := { s.zos with
        linkNow := s.zos.linkEnable
        slotOut := Vector.ofFn fun z => match s.pctl.holders.get z, (s.zos.zones.get z).fifo with
          | some _, v :: _ => if linked z = true then
              BitVec.ofInt 16 (v.toInt * gainTable ((s.zos.zones.get z).ga % 8)
                / ((2 ^ (27 - (s.zos.zones.get z).ga / 8) : Nat) : Int))
            else 0
          | _, _ => 0
        zones := Vector.ofFn fun z =>
          if linked z = true ∧ (s.pctl.holders.get z).isSome = true then
            { s.zos.zones.get z with fifo := (s.zos.zones.get z).fifo.tail }
          else s.zos.zones.get z } }
    exec .frameStart s = .next t
      ∧ (∀ (m : Fin 3) (k : Fin 8) (j : Fin 16),
          linkBit m ⟨16 * k.val + j.val, by omega⟩ t = (t.zos.slotOut.get ⟨8 * m.val + k.val, by omega⟩).getMsbD j.val)
      ∧ (∀ b : Fin 128, linkPulse b = true ↔ b.val = 0)

/-! ### Noise and gain -/

/-- The measurement chains. MIC_SAMPLE inside the blocks (R116 to R119): every zone's chain, whatever its zone's enable, microphone and
holder, takes its 128 bits at once; with x the decimated sample, DC removal forms e from the old accumulator and moves it toward x,
and the block takes |e|; nothing else changes. BLOCK_COMPLETE at the thousandth sample, for all zones at once (R116, R119, R120, R123,
R125 to R129): a block that no freeze touched, in READY, moves NE toward 16 times its level code by at most RISE or FALL, then the
silence count, then the window state; a change of window raises NOISE_STATE with the NL and the level code, and NL or window changed,
ZOS computes the zone's target gain again (R135, R136). Any other block leaves NE, the count and the window. The next block starts
empty either way. No page changes here: none is BACKGROUND, or no zone enters or leaves LOUD. The notices of several zones
come in the order the event gives, the zones it does not name last (log entry 17). RESUME_TIMER_EXPIRY ends the freeze when its timer
has run out (R124). -/
def Obligations.BlockCompletes : Prop :=
  ∀ (s : State) (order : List ZoneNo),
    (∀ bits : Vector (BitVec 128) 24, s.ptu.mode ≠ .resetLow → (∀ z : ZoneNo, (s.amon.get z).blockCount < 1000) →
      exec (.micSample order bits) s = .next { s with amon := Vector.ofFn fun z =>
        let a := s.amon.get z
        let k := a.fields
        let d := pushBits a.decimator (bits.get z)
        let x : Int := max (-32768) (min (d.second.sum / 64) 32767)
        let e : Int := if k.adapt = 0 then x else max (-32768) (min (x - a.dc / 65536) 32767)
        { a with
          decimator := d
          dc := if k.adapt = 0 then 0 else a.dc + (x * 65536 - a.dc) / ((2 ^ (16 - k.adapt) : Nat) : Int)
          blockSum := a.blockSum + e.natAbs
          blockCount := a.blockCount + 1 } })
    ∧ ((∀ p r, s.pctl.pages.get p = some r → r.priority ≠ .background)
        ∨ (∀ z : ZoneNo, BlockApplies (s.amon.get z) s →
          ((afterBlock (s.amon.get z)).window = .loud ↔ (s.amon.get z).window = .loud)) →
      let changed := fun z : ZoneNo =>
        let a := s.amon.get z
        if 1000 ≤ a.blockCount ∧ a.tainted = false ∧ a.freeze = .off ∧ s.ptu.mode = .ready ∧ (afterBlock a).window ≠ a.window then
          some (Notice.noiseState z a.window (afterBlock a).window ((afterBlock a).ne / 16) (some (levelCode (a.blockSum / 1000))))
        else none
      ∃ t, exec (.blockComplete order) s = .next t
        ∧ t = { raiseAll ((order.dedup ++ (List.finRange 24).filter (· ∉ order)).filterMap changed) s with
            amon := t.amon, zos := { s.zos with zones := t.zos.zones } }
        ∧ ∀ z : ZoneNo,
          let a := s.amon.get z
          (a.blockCount < 1000 → t.amon.get z = a)
          ∧ (1000 ≤ a.blockCount → a.tainted = true ∨ a.freeze ≠ .off ∨ s.ptu.mode ≠ .ready →
            t.amon.get z = { a with blockSum := 0, blockCount := 0, tainted := a.freeze != .off })
          ∧ (BlockApplies a s → t.amon.get z = afterBlock a)
          ∧ Reheard (s.pctl.holders.get z) a (t.amon.get z) (s.zos.zones.get z) (t.zos.zones.get z) s)
    ∧ (∀ (z : ZoneNo) (e : Nat), (s.amon.get z).freeze = .resuming e → e ≤ s.ptu.clock →
        exec (.resumeTimerExpiry z) s = .next { s with amon := putAt s.amon z { s.amon.get z with freeze := .off } })

/-- RAMP_TIMER_EXPIRY when the timer has run out (R138, R141): GA moves one step toward GT; the timer starts again with RAMP when
they still differ and stops when they are equal. A zone that is not being let go with GA at 0 changes nothing else. One being let go
that reaches 0 is freed (R83): its gains 0, its FIFO empty, its resume timer started when its holder is of NORMAL or above (R124);
the last zone of a RELEASING page takes the page's record with it: out of the Page Order, its context idle, PAGE_STATE (ENDED) with
the cause recorded (R91), no group waiting for a record. Where no page takes a zone then, nothing else changes. Else the first page
that can take it, by priority and Page Order, has it (R82): the zone's stage, estimate and mark are those of the new holder, and a
PENDING page enters PREAMBLE or ACTIVE (R87 to R89). What a change of holder does to a zone (R124, R135, R137 to R139, R145): taken, the
FIFO is empty and GA kept, or GMAX for EMERGENCY; let go, GT is 0; taken back, GT is the page's; GA and the FIFO are kept by both, but for
GMAX under EMERGENCY; the ramp timer keeps its expiry, starts with RAMP, or stops. No other zone is touched. (That the record is freed, with PAGE_STATE
ENDED, before the acquisition pass and so before the taker's PAGE_STATE, is the model's own order, inferred from R83 and R91: R83
names the pass before the record's freeing. Log entry 14.) -/
def Obligations.RampSteps : Prop :=
  (∀ (z : ZoneNo) (s : State) (e : Nat), (s.zos.zones.get z).rampAt = some e → e ≤ s.ptu.clock →
    let x := s.zos.zones.get z
    let ga := if x.ga < x.gt then x.ga + 1 else if x.gt < x.ga then x.ga - 1 else x.ga
    let stepped : ZosZone :=
      { x with ga := ga, rampAt := if ga = x.gt then none else some (s.ptu.clock + x.gain.ramp) }
    (ga ≠ 0 ∨ (∀ h, s.pctl.holders.get z = some h → h.lettingGo = false) →
      exec (.rampTimerExpiry z) s = .next { s with zos := { s.zos with zones := putAt s.zos.zones z stepped } })
    ∧ (∀ h r, ga = 0 → s.pctl.holders.get z = some h → h.lettingGo = true → s.pctl.pages.get h.page = some r →
        (r.state = .releasing → heldZones h.page s = [z] → s.pctl.waitList = []) →
        let last : Bool := r.state = .releasing && heldZones h.page s = [z]
        let u := if last = true then recordFreed h.page r r.endCause (zoneLeft z h s) else zoneLeft z h s
        let live := fun (p : PageNo) (q : PageRec) =>
          p ∈ s.pctl.pageOrder ∧ s.pctl.pages.get p = some q ∧ q.state ≠ .releasing
        ((∀ p q, live p q → zonesToTake q s = [] ∧ z ∉ q.wanted) → exec (.rampTimerExpiry z) s = .next u)
        ∧ (∀ p q, live p q → zonesToTake q u = [z] →
          (∀ k, q.source = .tone k → ((s.ctp.patterns.get k).steps.get 0).duration ≠ 0) →
          (∀ y v, live y v → y ≠ p → zonesToTake v s = []
            ∧ (z ∈ v.wanted → priorityRank v.priority < priorityRank q.priority
              ∨ v.priority = q.priority ∧ s.pctl.pageOrder.idxOf p < s.pctl.pageOrder.idxOf y)) →
          ∃ t, exec (.rampTimerExpiry z) s = .next t
            ∧ t.pctl = { u.pctl with
                holders := putAt s.pctl.holders z (some ⟨p, q.priority, q.trim, false⟩)
                pages := if q.state = .pending then putAt u.pctl.pages p (some (begun q s).1) else u.pctl.pages }
            ∧ ZoneTaken z ⟨p, q.priority, q.trim, false⟩ u t
            ∧ (∀ y, y ≠ z → t.zos.zones.get y = s.zos.zones.get y ∧ t.amon.get y = s.amon.get y
              ∧ t.ctp.overrun.get y = s.ctp.overrun.get y)
            ∧ (∀ y, y ≠ p → t.ctp.contexts.get y = u.ctp.contexts.get y ∧ t.ctp.fetches.get y = u.ctp.fetches.get y)
            ∧ (if q.state = .pending then
                Begins p q s t ∧ t.ntu = (raiseNotice (.pageState p (begun q s).2 none q.origin q.priority) u).ntu
              else t.ctp.contexts.get p = u.ctp.contexts.get p ∧ t.ctp.fetches.get p = u.ctp.fetches.get p ∧ t.ntu = u.ntu)
            ∧ SameInputs s t ∧ t.ptu = s.ptu ∧ t.rqu = s.rqu ∧ t.deng = s.deng ∧ t.lmon = s.lmon)))
  ∧ (∀ (z : ZoneNo) (h : Holder) (s : State), h.lettingGo = false →
    (∀ y, y ≠ z → (zoneTaken z h s).zos.zones.get y = s.zos.zones.get y
      ∧ ∀ b, (zoneLetting b z s).zos.zones.get y = s.zos.zones.get y)
    ∧ ZoneTaken z h s (zoneTaken z h s)
    ∧ (∀ (k : Holder) (b : Bool), s.pctl.holders.get z = some k →
        (zoneLetting b z s).zos.zones.get z = heldStage { k with lettingGo := b } (s.amon.get z) (s.zos.zones.get z) s
        ∧ (zoneLetting b z s).amon = s.amon)
    ∧ (∀ k, s.pctl.holders.get z = some k → zoneFreed z s = zoneLeft z k s))

/-- The level code (R120): 0 for a level of 0; else 8p + floor((L − 2^p) × 8 / 2^p) with p the largest number such that 2^p does
not exceed L. It lies in 0..120 for a level of at most 32768, and the manual's table holds. -/
def Obligations.LevelCodes : Prop :=
  levelCode 0 = 0
    ∧ (∀ l p : Nat, 2 ^ p ≤ l → l < 2 ^ (p + 1) → levelCode l = 8 * p + (l - 2 ^ p) * 8 / 2 ^ p
        ∧ (l - 2 ^ p) * 8 / 2 ^ p ≤ 7)
    ∧ (∀ l ≤ 32768, levelCode l ≤ 120)
    ∧ levelCode 1 = 0 ∧ levelCode 400 = 68 ∧ levelCode 600 = 73 ∧ levelCode 1200 = 81 ∧ levelCode 2600 = 90
    ∧ levelCode 3000 = 91 ∧ levelCode 32767 = 119 ∧ levelCode 32768 = 120

/-- Output scaling for every gain of 0..96 (R143): the quotient is rounded toward minus infinity; the product is at most
1,969,291,264 in magnitude and the divisor at least 2^15; the magnitude never grows, so the result fits in 16 bits and nothing
saturates; below 96, −1 gives −1 and 1 gives 0; and the manual's table. -/
def Obligations.ScalingBounded : Prop :=
  (∀ (v : Sample) (g : Nat), g ≤ 96 →
    let divisor : Nat := 2 ^ (27 - g / 8)
    let product : Int := v.toInt * gainTable (g % 8)
    divisor * scaled v.toInt g ≤ product ∧ product < divisor * (scaled v.toInt g + 1)
      ∧ product.natAbs ≤ 1969291264 ∧ 2 ^ 15 ≤ divisor
      ∧ (scaled v.toInt g).natAbs ≤ v.toInt.natAbs ∧ (sampleOf (scaled v.toInt g)).toInt = scaled v.toInt g
      ∧ (g < 96 → scaled (-1) g = -1 ∧ scaled 1 g = 0))
  ∧ scaled 10000 96 = 10000 ∧ scaled 10000 89 = 5452 ∧ scaled (-10000) 89 = -5453 ∧ scaled 10000 80 = 2500
  ∧ scaled (-32768) 95 = -30049 ∧ scaled 1 0 = 0 ∧ scaled (-1) 0 = -1

/-! ### Answered words -/

/-- What a processor read of each answered word returns, out of reset, from the state at the moment of the read (R176): Part Status
and Plant Time (R177), Occupancy (R10), the producer index (R166), group status (R50), sign-in (R24), park status with the seconds left
rounded up (R71), page status (R98), zone status from which each field can be read back (R151, 11.5), and a slot's STATUS and result
words (R154). A write to the Occupancy word reaches the array and leaves what a read returns (R10, R176). -/
def Obligations.AnsweredWords : Prop :=
  ∀ s : State, s.ptu.mode ≠ .resetLow →
    let read := fun o : Nat => processorRead (saAddress s.ptu.saBase o) s
    let f := fun (o lo len : Nat) => ((read o).extractLsb' lo len).toNat
    (f 0x0000 21 11 = 0x321 ∧ f 0x0000 20 1 = (if s.ptu.mode = .ready then 1 else 0) ∧ f 0x0000 16 4 = 1
      ∧ f 0x0000 0 16 = s.ptu.restartCount.toNat ∧ read 0x0001 = s.ptu.plantTime
      ∧ read 0x0004 = s.ntu.producer.setWidth 32)
    ∧ (referencesSound s → idleOrderSound s →
      f 0x0002 0 8 = s.deng.calls.length ∧ f 0x0002 16 11 = s.lmon.idleOrder.length
        ∧ ∀ (d : Word) (be : ByteEnables), PortFree s →
          let a := saAddress s.ptu.saBase 0x0002
          exec (.plainWrite a d be) s = .next (plainArrayWrite a d be s)
            ∧ processorRead a (plainArrayWrite a d be s) = read 0x0002)
    ∧ (∀ (g : GroupNo) (i : MemberPos),
      (read (0x0340 + g.val)).getLsbD i.val = ((s.deng.groups.get g).members.get i).signedIn)
    ∧ (∀ g : GroupNo, referencesSound s → (queueOf g s).length ≤ 16 →
      let o := 0x0300 + g.val
      let paging : Prop := ∃ p r, s.pctl.pages.get p = some r ∧ r.origin = .group g ∧ r.state ≠ .releasing
      let inGroupAs := fun (waits : Bool) (c : CallRecord) => (c.state == .queued) == waits
        && (match c.hunt with | some h => h.group = g | none => false)
      f o 0 1 = (if (s.deng.groups.get g).night = true then 1 else 0)
        ∧ f o 8 6 = ((List.finRange 32).filter fun i => eligibleAt g i s).length
        ∧ f o 16 5 = (s.deng.calls.filter (inGroupAs true)).length
        ∧ f o 24 8 = (s.deng.calls.filter (inGroupAs false)).length
        ∧ (paging → f o 2 2 = 1) ∧ (¬ paging → g ∈ s.pctl.waitList → f o 2 2 = 2)
        ∧ (¬ paging → g ∉ s.pctl.waitList → f o 2 2 = 0))
    ∧ (∀ n : ParkNo,
      let o := 0x0C80 + n.val
      (s.deng.parks.get n = none → read o = 0)
      ∧ (∀ x, s.deng.parks.get n = some x → x.expiry ≤ s.ptu.clock + 600000 →
        f o 0 16 = x.ref.toNat ∧ x.expiry - s.ptu.clock ≤ 1000 * f o 16 10
          ∧ 1000 * f o 16 10 < x.expiry - s.ptu.clock + 1000
          ∧ (read o).getLsbD 30 = x.page.isSome ∧ (read o).getLsbD 31 = true))
    ∧ (∀ p : PageNo,
      let o := 0x0E20 + p.val
      (s.pctl.pages.get p = none → read o = 0)
      ∧ (∀ r, s.pctl.pages.get p = some r →
        f o 0 3 = (match r.state with | .pending => 1 | .preamble => 2 | .active => 3 | .releasing => 4)
          ∧ f o 4 2 = (match r.priority with | .background => 0 | .normal => 1 | .urgent => 2 | .emergency => 3)
          ∧ f o 8 5 = (heldZones p s).length
          ∧ (f o 14 2, f o 16 6) = (match r.origin with | .request => (1, 0) | .group g => (2, g.val) | .park k => (3, k.val))
          ∧ (f o 22 2, f o 24 6) = (match r.source with | .live k => (1, k.val) | .clip c => (2, c.val) | .tone t => (3, t.val))))
    ∧ (∀ z : ZoneNo, ZoneSound (s.pctl.holders.get z) (s.zos.zones.get z) → (s.amon.get z).ne ≤ 1920 →
      let o := 0x0DC0 + z.val
      let x := s.zos.zones.get z
      f o 28 4 = (match s.pctl.holders.get z with | some h => h.page.val | none => 0)
        ∧ f o 13 15 / 3 / 97 = (match s.pctl.holders.get z with
            | none => 98
            | some h => if h.lettingGo = true then 97 else x.gt)
        ∧ f o 13 15 / 3 % 97 = x.ga
        ∧ f o 13 15 % 3 = (match (s.amon.get z).window with | .normal => 0 | .loud => 1 | .micSilent => 2)
        ∧ f o 0 13 / 65 = (s.amon.get z).ne / 16 ∧ f o 0 13 % 65 = x.fifo.length)
    ∧ (∀ n : SlotNo,
      let o := 0x0040 + 8 * n.val
      let x := s.rqu.slots.get n
      (x.state = .idle → read (o + 5) = 0)
      ∧ (x.state = .pending → read (o + 5) = (0 : BitVec 8) ++ x.tag ++ x.code ++ (1 : BitVec 8))
      ∧ (x.state = .done → read (o + 5) = BitVec.ofNat 8 (resultValue x.result) ++ x.tag ++ x.code ++ (2 : BitVec 8))
      ∧ read (o + 6) = (if x.state = .done then x.result0 else 0)
      ∧ read (o + 7) = (if x.state = .done then x.result1 else 0))
end

