-- ==== Sys2Proof/Laws/State.lean ====
section
/-! SUPPORT. What each setter of the state leaves alone, field by field, and reading a table after an update. -/

namespace Sys2Proof.Machine

/-! ### Tables -/

@[simp] theorem get_modAt {α : Type} {n : Nat} (v : Vector α n) (i j : Fin n) (f : α → α) :
    (modAt v i f).get j = if j = i then f (v.get i) else v.get j := by
  simp only [modAt, Vector.get_eq_getElem, Vector.getElem_set, Fin.ext_iff]
  split <;> split <;> first | rfl | omega

@[simp] theorem get_putAt {α : Type} {n : Nat} (v : Vector α n) (i j : Fin n) (x : α) :
    (putAt v i x).get j = if j = i then x else v.get j := by
  simp only [putAt, Vector.get_eq_getElem, Vector.getElem_set, Fin.ext_iff]
  split <;> split <;> first | rfl | omega

@[simp] theorem get_ofFn {α : Type} {n : Nat} (f : Fin n → α) (i : Fin n) : (Vector.ofFn f).get i = f i := by
  simp [Vector.get_eq_getElem]

@[simp] theorem get_replicate {α : Type} {n : Nat} (x : α) (i : Fin n) : (Vector.replicate n x).get i = x := by
  simp [Vector.get_eq_getElem]

/-! ### modShadow -/

@[simp] theorem modShadow_pending l f s : (modShadow l f s).pending = s.pending := rfl
@[simp] theorem modShadow_ptu l f s : (modShadow l f s).ptu = s.ptu := rfl
@[simp] theorem modShadow_deng l f s : (modShadow l f s).deng = s.deng := rfl
@[simp] theorem modShadow_pctl l f s : (modShadow l f s).pctl = s.pctl := rfl
@[simp] theorem modShadow_ctp l f s : (modShadow l f s).ctp = s.ctp := rfl
@[simp] theorem modShadow_amon l f s : (modShadow l f s).amon = s.amon := rfl
@[simp] theorem modShadow_zos l f s : (modShadow l f s).zos = s.zos := rfl
@[simp] theorem modShadow_rqu l f s : (modShadow l f s).rqu = s.rqu := rfl
@[simp] theorem modShadow_ntu l f s : (modShadow l f s).ntu = s.ntu := rfl
@[simp] theorem modShadow_idleOrder l f s : (modShadow l f s).lmon.idleOrder = s.lmon.idleOrder := rfl
@[simp] theorem modShadow_noted l f s : (modShadow l f s).lmon.noted = s.lmon.noted := rfl
@[simp] theorem modShadow_presenting l f s : (modShadow l f s).lmon.presenting = s.lmon.presenting := rfl

/-! ### modCall -/

@[simp] theorem modCall_pending r f s : (modCall r f s).pending = s.pending := rfl
@[simp] theorem modCall_ptu r f s : (modCall r f s).ptu = s.ptu := rfl
@[simp] theorem modCall_lmon r f s : (modCall r f s).lmon = s.lmon := rfl
@[simp] theorem modCall_pctl r f s : (modCall r f s).pctl = s.pctl := rfl
@[simp] theorem modCall_ctp r f s : (modCall r f s).ctp = s.ctp := rfl
@[simp] theorem modCall_amon r f s : (modCall r f s).amon = s.amon := rfl
@[simp] theorem modCall_zos r f s : (modCall r f s).zos = s.zos := rfl
@[simp] theorem modCall_rqu r f s : (modCall r f s).rqu = s.rqu := rfl
@[simp] theorem modCall_ntu r f s : (modCall r f s).ntu = s.ntu := rfl
@[simp] theorem modCall_groups r f s : (modCall r f s).deng.groups = s.deng.groups := rfl
@[simp] theorem modCall_permissions r f s : (modCall r f s).deng.permissions = s.deng.permissions := rfl
@[simp] theorem modCall_parks r f s : (modCall r f s).deng.parks = s.deng.parks := rfl
@[simp] theorem modCall_confirmWindow r f s : (modCall r f s).deng.confirmWindow = s.deng.confirmWindow := rfl
@[simp] theorem modCall_parkTime r f s : (modCall r f s).deng.parkTime = s.deng.parkTime := rfl

/-! ### modGroup -/

@[simp] theorem modGroup_pending g f s : (modGroup g f s).pending = s.pending := rfl
@[simp] theorem modGroup_ptu g f s : (modGroup g f s).ptu = s.ptu := rfl
@[simp] theorem modGroup_lmon g f s : (modGroup g f s).lmon = s.lmon := rfl
@[simp] theorem modGroup_pctl g f s : (modGroup g f s).pctl = s.pctl := rfl
@[simp] theorem modGroup_ctp g f s : (modGroup g f s).ctp = s.ctp := rfl
@[simp] theorem modGroup_amon g f s : (modGroup g f s).amon = s.amon := rfl
@[simp] theorem modGroup_zos g f s : (modGroup g f s).zos = s.zos := rfl
@[simp] theorem modGroup_rqu g f s : (modGroup g f s).rqu = s.rqu := rfl
@[simp] theorem modGroup_ntu g f s : (modGroup g f s).ntu = s.ntu := rfl
@[simp] theorem modGroup_calls g f s : (modGroup g f s).deng.calls = s.deng.calls := rfl
@[simp] theorem modGroup_permissions g f s : (modGroup g f s).deng.permissions = s.deng.permissions := rfl
@[simp] theorem modGroup_parks g f s : (modGroup g f s).deng.parks = s.deng.parks := rfl
@[simp] theorem modGroup_confirmWindow g f s : (modGroup g f s).deng.confirmWindow = s.deng.confirmWindow := rfl
@[simp] theorem modGroup_parkTime g f s : (modGroup g f s).deng.parkTime = s.deng.parkTime := rfl

/-! ### modMember -/

@[simp] theorem modMember_pending g i f s : (modMember g i f s).pending = s.pending := rfl
@[simp] theorem modMember_ptu g i f s : (modMember g i f s).ptu = s.ptu := rfl
@[simp] theorem modMember_lmon g i f s : (modMember g i f s).lmon = s.lmon := rfl
@[simp] theorem modMember_pctl g i f s : (modMember g i f s).pctl = s.pctl := rfl
@[simp] theorem modMember_ctp g i f s : (modMember g i f s).ctp = s.ctp := rfl
@[simp] theorem modMember_amon g i f s : (modMember g i f s).amon = s.amon := rfl
@[simp] theorem modMember_zos g i f s : (modMember g i f s).zos = s.zos := rfl
@[simp] theorem modMember_rqu g i f s : (modMember g i f s).rqu = s.rqu := rfl
@[simp] theorem modMember_ntu g i f s : (modMember g i f s).ntu = s.ntu := rfl
@[simp] theorem modMember_calls g i f s : (modMember g i f s).deng.calls = s.deng.calls := rfl
@[simp] theorem modMember_permissions g i f s : (modMember g i f s).deng.permissions = s.deng.permissions := rfl
@[simp] theorem modMember_parks g i f s : (modMember g i f s).deng.parks = s.deng.parks := rfl
@[simp] theorem modMember_confirmWindow g i f s : (modMember g i f s).deng.confirmWindow = s.deng.confirmWindow := rfl
@[simp] theorem modMember_parkTime g i f s : (modMember g i f s).deng.parkTime = s.deng.parkTime := rfl

/-! ### putPark -/

@[simp] theorem putPark_pending n k s : (putPark n k s).pending = s.pending := rfl
@[simp] theorem putPark_ptu n k s : (putPark n k s).ptu = s.ptu := rfl
@[simp] theorem putPark_lmon n k s : (putPark n k s).lmon = s.lmon := rfl
@[simp] theorem putPark_pctl n k s : (putPark n k s).pctl = s.pctl := rfl
@[simp] theorem putPark_ctp n k s : (putPark n k s).ctp = s.ctp := rfl
@[simp] theorem putPark_amon n k s : (putPark n k s).amon = s.amon := rfl
@[simp] theorem putPark_zos n k s : (putPark n k s).zos = s.zos := rfl
@[simp] theorem putPark_rqu n k s : (putPark n k s).rqu = s.rqu := rfl
@[simp] theorem putPark_ntu n k s : (putPark n k s).ntu = s.ntu := rfl
@[simp] theorem putPark_calls n k s : (putPark n k s).deng.calls = s.deng.calls := rfl
@[simp] theorem putPark_groups n k s : (putPark n k s).deng.groups = s.deng.groups := rfl
@[simp] theorem putPark_permissions n k s : (putPark n k s).deng.permissions = s.deng.permissions := rfl
@[simp] theorem putPark_confirmWindow n k s : (putPark n k s).deng.confirmWindow = s.deng.confirmWindow := rfl
@[simp] theorem putPark_parkTime n k s : (putPark n k s).deng.parkTime = s.deng.parkTime := rfl

/-! ### putPage -/

@[simp] theorem putPage_pending p r s : (putPage p r s).pending = s.pending := rfl
@[simp] theorem putPage_ptu p r s : (putPage p r s).ptu = s.ptu := rfl
@[simp] theorem putPage_lmon p r s : (putPage p r s).lmon = s.lmon := rfl
@[simp] theorem putPage_deng p r s : (putPage p r s).deng = s.deng := rfl
@[simp] theorem putPage_ctp p r s : (putPage p r s).ctp = s.ctp := rfl
@[simp] theorem putPage_amon p r s : (putPage p r s).amon = s.amon := rfl
@[simp] theorem putPage_zos p r s : (putPage p r s).zos = s.zos := rfl
@[simp] theorem putPage_rqu p r s : (putPage p r s).rqu = s.rqu := rfl
@[simp] theorem putPage_ntu p r s : (putPage p r s).ntu = s.ntu := rfl
@[simp] theorem putPage_pageOrder p r s : (putPage p r s).pctl.pageOrder = s.pctl.pageOrder := rfl
@[simp] theorem putPage_holders p r s : (putPage p r s).pctl.holders = s.pctl.holders := rfl
@[simp] theorem putPage_waitList p r s : (putPage p r s).pctl.waitList = s.pctl.waitList := rfl
@[simp] theorem putPage_targets p r s : (putPage p r s).pctl.targets = s.pctl.targets := rfl
@[simp] theorem putPage_enabled p r s : (putPage p r s).pctl.enabled = s.pctl.enabled := rfl

/-! ### modPage -/

@[simp] theorem modPage_pending p f s : (modPage p f s).pending = s.pending := rfl
@[simp] theorem modPage_ptu p f s : (modPage p f s).ptu = s.ptu := rfl
@[simp] theorem modPage_lmon p f s : (modPage p f s).lmon = s.lmon := rfl
@[simp] theorem modPage_deng p f s : (modPage p f s).deng = s.deng := rfl
@[simp] theorem modPage_ctp p f s : (modPage p f s).ctp = s.ctp := rfl
@[simp] theorem modPage_amon p f s : (modPage p f s).amon = s.amon := rfl
@[simp] theorem modPage_zos p f s : (modPage p f s).zos = s.zos := rfl
@[simp] theorem modPage_rqu p f s : (modPage p f s).rqu = s.rqu := rfl
@[simp] theorem modPage_ntu p f s : (modPage p f s).ntu = s.ntu := rfl
@[simp] theorem modPage_pageOrder p f s : (modPage p f s).pctl.pageOrder = s.pctl.pageOrder := rfl
@[simp] theorem modPage_holders p f s : (modPage p f s).pctl.holders = s.pctl.holders := rfl
@[simp] theorem modPage_waitList p f s : (modPage p f s).pctl.waitList = s.pctl.waitList := rfl
@[simp] theorem modPage_targets p f s : (modPage p f s).pctl.targets = s.pctl.targets := rfl
@[simp] theorem modPage_enabled p f s : (modPage p f s).pctl.enabled = s.pctl.enabled := rfl

/-! ### putHolder -/

@[simp] theorem putHolder_pending z h s : (putHolder z h s).pending = s.pending := rfl
@[simp] theorem putHolder_ptu z h s : (putHolder z h s).ptu = s.ptu := rfl
@[simp] theorem putHolder_lmon z h s : (putHolder z h s).lmon = s.lmon := rfl
@[simp] theorem putHolder_deng z h s : (putHolder z h s).deng = s.deng := rfl
@[simp] theorem putHolder_ctp z h s : (putHolder z h s).ctp = s.ctp := rfl
@[simp] theorem putHolder_amon z h s : (putHolder z h s).amon = s.amon := rfl
@[simp] theorem putHolder_zos z h s : (putHolder z h s).zos = s.zos := rfl
@[simp] theorem putHolder_rqu z h s : (putHolder z h s).rqu = s.rqu := rfl
@[simp] theorem putHolder_ntu z h s : (putHolder z h s).ntu = s.ntu := rfl
@[simp] theorem putHolder_pages z h s : (putHolder z h s).pctl.pages = s.pctl.pages := rfl
@[simp] theorem putHolder_pageOrder z h s : (putHolder z h s).pctl.pageOrder = s.pctl.pageOrder := rfl
@[simp] theorem putHolder_waitList z h s : (putHolder z h s).pctl.waitList = s.pctl.waitList := rfl
@[simp] theorem putHolder_targets z h s : (putHolder z h s).pctl.targets = s.pctl.targets := rfl
@[simp] theorem putHolder_enabled z h s : (putHolder z h s).pctl.enabled = s.pctl.enabled := rfl

/-! ### modContext -/

@[simp] theorem modContext_pending p f s : (modContext p f s).pending = s.pending := rfl
@[simp] theorem modContext_ptu p f s : (modContext p f s).ptu = s.ptu := rfl
@[simp] theorem modContext_lmon p f s : (modContext p f s).lmon = s.lmon := rfl
@[simp] theorem modContext_deng p f s : (modContext p f s).deng = s.deng := rfl
@[simp] theorem modContext_pctl p f s : (modContext p f s).pctl = s.pctl := rfl
@[simp] theorem modContext_amon p f s : (modContext p f s).amon = s.amon := rfl
@[simp] theorem modContext_zos p f s : (modContext p f s).zos = s.zos := rfl
@[simp] theorem modContext_rqu p f s : (modContext p f s).rqu = s.rqu := rfl
@[simp] theorem modContext_ntu p f s : (modContext p f s).ntu = s.ntu := rfl
@[simp] theorem modContext_fetches p f s : (modContext p f s).ctp.fetches = s.ctp.fetches := rfl
@[simp] theorem modContext_overrun p f s : (modContext p f s).ctp.overrun = s.ctp.overrun := rfl
@[simp] theorem modContext_patterns p f s : (modContext p f s).ctp.patterns = s.ctp.patterns := rfl
@[simp] theorem modContext_directory p f s : (modContext p f s).ctp.directory = s.ctp.directory := rfl

/-! ### putFetch -/

@[simp] theorem putFetch_pending p f s : (putFetch p f s).pending = s.pending := rfl
@[simp] theorem putFetch_ptu p f s : (putFetch p f s).ptu = s.ptu := rfl
@[simp] theorem putFetch_lmon p f s : (putFetch p f s).lmon = s.lmon := rfl
@[simp] theorem putFetch_deng p f s : (putFetch p f s).deng = s.deng := rfl
@[simp] theorem putFetch_pctl p f s : (putFetch p f s).pctl = s.pctl := rfl
@[simp] theorem putFetch_amon p f s : (putFetch p f s).amon = s.amon := rfl
@[simp] theorem putFetch_zos p f s : (putFetch p f s).zos = s.zos := rfl
@[simp] theorem putFetch_rqu p f s : (putFetch p f s).rqu = s.rqu := rfl
@[simp] theorem putFetch_ntu p f s : (putFetch p f s).ntu = s.ntu := rfl
@[simp] theorem putFetch_contexts p f s : (putFetch p f s).ctp.contexts = s.ctp.contexts := rfl
@[simp] theorem putFetch_overrun p f s : (putFetch p f s).ctp.overrun = s.ctp.overrun := rfl
@[simp] theorem putFetch_patterns p f s : (putFetch p f s).ctp.patterns = s.ctp.patterns := rfl
@[simp] theorem putFetch_directory p f s : (putFetch p f s).ctp.directory = s.ctp.directory := rfl

/-! ### putOverrun -/

@[simp] theorem putOverrun_pending z b s : (putOverrun z b s).pending = s.pending := rfl
@[simp] theorem putOverrun_ptu z b s : (putOverrun z b s).ptu = s.ptu := rfl
@[simp] theorem putOverrun_lmon z b s : (putOverrun z b s).lmon = s.lmon := rfl
@[simp] theorem putOverrun_deng z b s : (putOverrun z b s).deng = s.deng := rfl
@[simp] theorem putOverrun_pctl z b s : (putOverrun z b s).pctl = s.pctl := rfl
@[simp] theorem putOverrun_amon z b s : (putOverrun z b s).amon = s.amon := rfl
@[simp] theorem putOverrun_zos z b s : (putOverrun z b s).zos = s.zos := rfl
@[simp] theorem putOverrun_rqu z b s : (putOverrun z b s).rqu = s.rqu := rfl
@[simp] theorem putOverrun_ntu z b s : (putOverrun z b s).ntu = s.ntu := rfl
@[simp] theorem putOverrun_contexts z b s : (putOverrun z b s).ctp.contexts = s.ctp.contexts := rfl
@[simp] theorem putOverrun_fetches z b s : (putOverrun z b s).ctp.fetches = s.ctp.fetches := rfl
@[simp] theorem putOverrun_patterns z b s : (putOverrun z b s).ctp.patterns = s.ctp.patterns := rfl
@[simp] theorem putOverrun_directory z b s : (putOverrun z b s).ctp.directory = s.ctp.directory := rfl

/-! ### modAmon -/

@[simp] theorem modAmon_pending z f s : (modAmon z f s).pending = s.pending := rfl
@[simp] theorem modAmon_ptu z f s : (modAmon z f s).ptu = s.ptu := rfl
@[simp] theorem modAmon_lmon z f s : (modAmon z f s).lmon = s.lmon := rfl
@[simp] theorem modAmon_deng z f s : (modAmon z f s).deng = s.deng := rfl
@[simp] theorem modAmon_pctl z f s : (modAmon z f s).pctl = s.pctl := rfl
@[simp] theorem modAmon_ctp z f s : (modAmon z f s).ctp = s.ctp := rfl
@[simp] theorem modAmon_zos z f s : (modAmon z f s).zos = s.zos := rfl
@[simp] theorem modAmon_rqu z f s : (modAmon z f s).rqu = s.rqu := rfl
@[simp] theorem modAmon_ntu z f s : (modAmon z f s).ntu = s.ntu := rfl

/-! ### modZos -/

@[simp] theorem modZos_pending z f s : (modZos z f s).pending = s.pending := rfl
@[simp] theorem modZos_ptu z f s : (modZos z f s).ptu = s.ptu := rfl
@[simp] theorem modZos_lmon z f s : (modZos z f s).lmon = s.lmon := rfl
@[simp] theorem modZos_deng z f s : (modZos z f s).deng = s.deng := rfl
@[simp] theorem modZos_pctl z f s : (modZos z f s).pctl = s.pctl := rfl
@[simp] theorem modZos_ctp z f s : (modZos z f s).ctp = s.ctp := rfl
@[simp] theorem modZos_amon z f s : (modZos z f s).amon = s.amon := rfl
@[simp] theorem modZos_rqu z f s : (modZos z f s).rqu = s.rqu := rfl
@[simp] theorem modZos_ntu z f s : (modZos z f s).ntu = s.ntu := rfl
@[simp] theorem modZos_linkEnable z f s : (modZos z f s).zos.linkEnable = s.zos.linkEnable := rfl
@[simp] theorem modZos_linkNow z f s : (modZos z f s).zos.linkNow = s.zos.linkNow := rfl
@[simp] theorem modZos_slotOut z f s : (modZos z f s).zos.slotOut = s.zos.slotOut := rfl

/-! ### modSlot -/

@[simp] theorem modSlot_pending n f s : (modSlot n f s).pending = s.pending := rfl
@[simp] theorem modSlot_ptu n f s : (modSlot n f s).ptu = s.ptu := rfl
@[simp] theorem modSlot_lmon n f s : (modSlot n f s).lmon = s.lmon := rfl
@[simp] theorem modSlot_deng n f s : (modSlot n f s).deng = s.deng := rfl
@[simp] theorem modSlot_pctl n f s : (modSlot n f s).pctl = s.pctl := rfl
@[simp] theorem modSlot_ctp n f s : (modSlot n f s).ctp = s.ctp := rfl
@[simp] theorem modSlot_amon n f s : (modSlot n f s).amon = s.amon := rfl
@[simp] theorem modSlot_zos n f s : (modSlot n f s).zos = s.zos := rfl
@[simp] theorem modSlot_ntu n f s : (modSlot n f s).ntu = s.ntu := rfl
@[simp] theorem modSlot_pointer n f s : (modSlot n f s).rqu.pointer = s.rqu.pointer := rfl

/-! ### arrayWrite -/

@[simp] theorem arrayWrite_pending a d be s : (arrayWrite a d be s).pending = s.pending := rfl
@[simp] theorem arrayWrite_lmon a d be s : (arrayWrite a d be s).lmon = s.lmon := rfl
@[simp] theorem arrayWrite_deng a d be s : (arrayWrite a d be s).deng = s.deng := rfl
@[simp] theorem arrayWrite_pctl a d be s : (arrayWrite a d be s).pctl = s.pctl := rfl
@[simp] theorem arrayWrite_ctp a d be s : (arrayWrite a d be s).ctp = s.ctp := rfl
@[simp] theorem arrayWrite_amon a d be s : (arrayWrite a d be s).amon = s.amon := rfl
@[simp] theorem arrayWrite_zos a d be s : (arrayWrite a d be s).zos = s.zos := rfl
@[simp] theorem arrayWrite_rqu a d be s : (arrayWrite a d be s).rqu = s.rqu := rfl
@[simp] theorem arrayWrite_ntu a d be s : (arrayWrite a d be s).ntu = s.ntu := rfl
@[simp] theorem arrayWrite_mode a d be s : (arrayWrite a d be s).ptu.mode = s.ptu.mode := rfl
@[simp] theorem arrayWrite_saBase a d be s : (arrayWrite a d be s).ptu.saBase = s.ptu.saBase := rfl
@[simp] theorem arrayWrite_plantTime a d be s : (arrayWrite a d be s).ptu.plantTime = s.ptu.plantTime := rfl
@[simp] theorem arrayWrite_clock a d be s : (arrayWrite a d be s).ptu.clock = s.ptu.clock := rfl
@[simp] theorem arrayWrite_restartCount a d be s : (arrayWrite a d be s).ptu.restartCount = s.ptu.restartCount := rfl
@[simp] theorem arrayWrite_scanned a d be s : (arrayWrite a d be s).ptu.scanned = s.ptu.scanned := rfl
@[simp] theorem arrayWrite_restartSlot a d be s : (arrayWrite a d be s).ptu.restartSlot = s.ptu.restartSlot := rfl
@[simp] theorem arrayWrite_copies a d be s : (arrayWrite a d be s).ptu.copies = s.ptu.copies := rfl
@[simp] theorem arrayWrite_burst a d be s : (arrayWrite a d be s).ptu.burst = s.ptu.burst := rfl
@[simp] theorem arrayWrite_holdMark a d be s : (arrayWrite a d be s).ptu.holdMark = s.ptu.holdMark := rfl
@[simp] theorem arrayWrite_heldAccess a d be s : (arrayWrite a d be s).ptu.heldAccess = s.ptu.heldAccess := rfl
@[simp] theorem arrayWrite_fetchPointer a d be s : (arrayWrite a d be s).ptu.fetchPointer = s.ptu.fetchPointer := rfl
@[simp] theorem arrayWrite_freeCount a d be s : (arrayWrite a d be s).ptu.freeCount = s.ptu.freeCount := rfl

/-! ### mergeCopy -/

@[simp] theorem mergeCopy_pending w d be s : (mergeCopy w d be s).pending = s.pending := rfl
@[simp] theorem mergeCopy_lmon w d be s : (mergeCopy w d be s).lmon = s.lmon := rfl
@[simp] theorem mergeCopy_deng w d be s : (mergeCopy w d be s).deng = s.deng := rfl
@[simp] theorem mergeCopy_pctl w d be s : (mergeCopy w d be s).pctl = s.pctl := rfl
@[simp] theorem mergeCopy_ctp w d be s : (mergeCopy w d be s).ctp = s.ctp := rfl
@[simp] theorem mergeCopy_amon w d be s : (mergeCopy w d be s).amon = s.amon := rfl
@[simp] theorem mergeCopy_zos w d be s : (mergeCopy w d be s).zos = s.zos := rfl
@[simp] theorem mergeCopy_rqu w d be s : (mergeCopy w d be s).rqu = s.rqu := rfl
@[simp] theorem mergeCopy_ntu w d be s : (mergeCopy w d be s).ntu = s.ntu := rfl
@[simp] theorem mergeCopy_mode w d be s : (mergeCopy w d be s).ptu.mode = s.ptu.mode := rfl
@[simp] theorem mergeCopy_saBase w d be s : (mergeCopy w d be s).ptu.saBase = s.ptu.saBase := rfl
@[simp] theorem mergeCopy_plantTime w d be s : (mergeCopy w d be s).ptu.plantTime = s.ptu.plantTime := rfl
@[simp] theorem mergeCopy_clock w d be s : (mergeCopy w d be s).ptu.clock = s.ptu.clock := rfl
@[simp] theorem mergeCopy_restartCount w d be s : (mergeCopy w d be s).ptu.restartCount = s.ptu.restartCount := rfl
@[simp] theorem mergeCopy_scanned w d be s : (mergeCopy w d be s).ptu.scanned = s.ptu.scanned := rfl
@[simp] theorem mergeCopy_restartSlot w d be s : (mergeCopy w d be s).ptu.restartSlot = s.ptu.restartSlot := rfl
@[simp] theorem mergeCopy_array w d be s : (mergeCopy w d be s).ptu.array = s.ptu.array := rfl
@[simp] theorem mergeCopy_burst w d be s : (mergeCopy w d be s).ptu.burst = s.ptu.burst := rfl
@[simp] theorem mergeCopy_holdMark w d be s : (mergeCopy w d be s).ptu.holdMark = s.ptu.holdMark := rfl
@[simp] theorem mergeCopy_heldAccess w d be s : (mergeCopy w d be s).ptu.heldAccess = s.ptu.heldAccess := rfl
@[simp] theorem mergeCopy_fetchPointer w d be s : (mergeCopy w d be s).ptu.fetchPointer = s.ptu.fetchPointer := rfl
@[simp] theorem mergeCopy_freeCount w d be s : (mergeCopy w d be s).ptu.freeCount = s.ptu.freeCount := rfl

/-! ### accessStart -/

@[simp] theorem accessStart_pending s : (accessStart s).pending = s.pending := rfl
@[simp] theorem accessStart_lmon s : (accessStart s).lmon = s.lmon := rfl
@[simp] theorem accessStart_deng s : (accessStart s).deng = s.deng := rfl
@[simp] theorem accessStart_pctl s : (accessStart s).pctl = s.pctl := rfl
@[simp] theorem accessStart_ctp s : (accessStart s).ctp = s.ctp := rfl
@[simp] theorem accessStart_amon s : (accessStart s).amon = s.amon := rfl
@[simp] theorem accessStart_zos s : (accessStart s).zos = s.zos := rfl
@[simp] theorem accessStart_rqu s : (accessStart s).rqu = s.rqu := rfl
@[simp] theorem accessStart_ntu s : (accessStart s).ntu = s.ntu := rfl
@[simp] theorem accessStart_mode s : (accessStart s).ptu.mode = s.ptu.mode := rfl
@[simp] theorem accessStart_saBase s : (accessStart s).ptu.saBase = s.ptu.saBase := rfl
@[simp] theorem accessStart_plantTime s : (accessStart s).ptu.plantTime = s.ptu.plantTime := rfl
@[simp] theorem accessStart_clock s : (accessStart s).ptu.clock = s.ptu.clock := rfl
@[simp] theorem accessStart_restartCount s : (accessStart s).ptu.restartCount = s.ptu.restartCount := rfl
@[simp] theorem accessStart_scanned s : (accessStart s).ptu.scanned = s.ptu.scanned := rfl
@[simp] theorem accessStart_restartSlot s : (accessStart s).ptu.restartSlot = s.ptu.restartSlot := rfl
@[simp] theorem accessStart_copies s : (accessStart s).ptu.copies = s.ptu.copies := rfl
@[simp] theorem accessStart_array s : (accessStart s).ptu.array = s.ptu.array := rfl
@[simp] theorem accessStart_burst s : (accessStart s).ptu.burst = s.ptu.burst := rfl
@[simp] theorem accessStart_fetchPointer s : (accessStart s).ptu.fetchPointer = s.ptu.fetchPointer := rfl
@[simp] theorem accessStart_freeCount s : (accessStart s).ptu.freeCount = s.ptu.freeCount := rfl

end Sys2Proof.Machine
end

