-- ==== Sys2Proof/Laws/Memory.lean ====
section
/-! SUPPORT. The byte memories: what a read gives after a write, and that every write keeps the canonical form. -/

namespace Sys2Proof.Machine

/-! ### One byte -/

@[simp] theorem memByte_nil (a : Nat) : memByte [] a = 0 := rfl

/-- Below the least address nothing is listed. -/
theorem memByte_of_memFrom {m : Memory} : ∀ {lo a : Nat}, memFrom lo m = true → a < lo → memByte m a = 0 := by
  induction m with
  | nil => intros; rfl
  | cons x m ih =>
    intro lo a h ha
    simp only [memFrom, Bool.and_eq_true, decide_eq_true_eq] at h
    obtain ⟨⟨h1, -⟩, h2⟩ := h
    simp only [memByte]
    rw [if_neg (by omega)]
    exact ih h2 (by omega)

/-- A read after a write gives the written byte at its address and the old byte elsewhere. -/
theorem memByte_memPut_from {m : Memory} : ∀ {lo : Nat} (a : Nat) (b : Byte) (c : Nat), memFrom lo m = true →
    memByte (memPut m a b) c = if c = a then b else memByte m c := by
  induction m with
  | nil =>
    intro lo a b c _
    simp only [memPut]
    split
    · next h => subst h; split <;> rfl
    · simp only [memByte]
      split
      · next h => subst h; simp
      · next h => rw [if_neg (fun h' => h h'.symm)]
  | cons x m ih =>
    intro lo a b c h
    obtain ⟨k, v⟩ := x
    have hw := h
    simp only [memFrom, Bool.and_eq_true, decide_eq_true_eq] at h
    obtain ⟨⟨h1, -⟩, h2⟩ := h
    simp only [memPut]
    split
    · next hlt =>
      split
      · next hb =>
        subst hb
        split
        · next hc => subst hc; exact memByte_of_memFrom (lo := k) (by simp_all [memFrom]) hlt
        · rfl
      · simp only [memByte]
        by_cases hc : a = c
        · subst hc; simp
        · simp only [if_neg hc, if_neg (fun h' => hc (Eq.symm h'))]
    · next hge =>
      split
      · next heq =>
        subst heq
        split
        · next hb =>
          subst hb
          split
          · next hc => subst hc; exact memByte_of_memFrom h2 (by omega)
          · next hc => simp only [memByte]; rw [if_neg (fun h' => hc h'.symm)]
        · simp only [memByte]
          by_cases hc : a = c
          · subst hc; simp
          · rw [if_neg hc, if_neg (fun h' => hc h'.symm), if_neg hc]
      · next hne =>
        simp only [memByte]
        by_cases hk : k = c
        · subst hk; rw [if_pos rfl, if_neg (fun h' => hne h'.symm), if_pos rfl]
        · rw [if_neg hk, if_neg hk]; exact ih a b c h2

/-- Read after write, on a memory in canonical form. -/
theorem memByte_memPut {m : Memory} (h : Memory.wf m = true) (a : Nat) (b : Byte) (c : Nat) :
    memByte (memPut m a b) c = if c = a then b else memByte m c := memByte_memPut_from a b c h

/-- A write keeps the canonical form from a least address on. -/
theorem memFrom_memPut {m : Memory} : ∀ {lo a : Nat} {b : Byte}, memFrom lo m = true → lo ≤ a →
    memFrom lo (memPut m a b) = true := by
  induction m with
  | nil =>
    intro lo a b _ h
    simp only [memPut]
    split <;> simp_all [memFrom]
  | cons x m ih =>
    intro lo a b h ha
    obtain ⟨k, v⟩ := x
    have hw := h
    simp only [memFrom, Bool.and_eq_true, decide_eq_true_eq] at h
    obtain ⟨⟨h1, hv⟩, h2⟩ := h
    have weaken : ∀ {lo lo' : Nat} {m : Memory}, memFrom lo m = true → lo' ≤ lo → memFrom lo' m = true := by
      intro lo lo' m h hl
      cases m with
      | nil => rfl
      | cons y m => simp only [memFrom, Bool.and_eq_true, decide_eq_true_eq] at h ⊢; exact ⟨⟨by omega, h.1.2⟩, h.2⟩
    simp only [memPut]
    split
    · next hlt =>
      split
      · exact hw
      · next hb =>
        simp only [memFrom, Bool.and_eq_true, decide_eq_true_eq]
        exact ⟨⟨ha, by simpa using hb⟩, ⟨by omega, hv⟩, h2⟩
    · next hge =>
      split
      · next heq =>
        subst heq
        split
        · exact weaken h2 (by omega)
        · next hb =>
          simp only [memFrom, Bool.and_eq_true, decide_eq_true_eq]
          exact ⟨⟨ha, by simpa using hb⟩, h2⟩
      · simp only [memFrom, Bool.and_eq_true, decide_eq_true_eq]
        exact ⟨⟨h1, hv⟩, ih h2 (by omega)⟩

/-- Storing a byte keeps the canonical form. -/
theorem wf_memPut {m : Memory} (h : Memory.wf m = true) (a : Nat) (b : Byte) : Memory.wf (memPut m a b) = true :=
  memFrom_memPut h (Nat.zero_le a)

@[simp] theorem wf_nil : Memory.wf [] = true := rfl

/-! ### One word -/

/-- Storing one enabled byte keeps the canonical form. -/
theorem wf_memPutEnabled {m : Memory} (h : Memory.wf m = true) (w : Nat) (d : Word) (be : ByteEnables) (i : Nat) :
    Memory.wf (memPutEnabled m w d be i) = true := by
  unfold memPutEnabled
  split
  · exact wf_memPut h _ _
  · exact h

/-- A word write keeps the canonical form. -/
theorem wf_memWrite {m : Memory} (h : Memory.wf m = true) (w : Nat) (d : Word) (be : ByteEnables) :
    Memory.wf (memWrite m w d be) = true :=
  wf_memPutEnabled (wf_memPutEnabled (wf_memPutEnabled (wf_memPutEnabled h w d be 0) w d be 1) w d be 2) w d be 3

theorem memByte_memPutEnabled {m : Memory} (h : Memory.wf m = true) (w : Nat) (d : Word) (be : ByteEnables) (i c : Nat) :
    memByte (memPutEnabled m w d be i) c
      = if c = 4 * w + i ∧ be.getLsbD i = true then d.extractLsb' (8 * i) 8 else memByte m c := by
  unfold memPutEnabled
  by_cases hb : be.getLsbD i
  · rw [if_pos hb, memByte_memPut h]; simp [hb]
  · rw [if_neg hb]; simp [hb]

/-- A read of a byte after a word write: the written byte where it was enabled, the old byte elsewhere. -/
theorem memByte_memWrite {m : Memory} (h : Memory.wf m = true) (w : Nat) (d : Word) (be : ByteEnables) (c : Nat) :
    memByte (memWrite m w d be) c
      = if c / 4 = w ∧ be.getLsbD (c % 4) = true then d.extractLsb' (8 * (c % 4)) 8 else memByte m c := by
  have h0 := wf_memPutEnabled h w d be 0
  have h1 := wf_memPutEnabled h0 w d be 1
  have h2 := wf_memPutEnabled h1 w d be 2
  simp only [memWrite]
  rw [memByte_memPutEnabled h2, memByte_memPutEnabled h1, memByte_memPutEnabled h0, memByte_memPutEnabled h]
  by_cases hc : c / 4 = w
  · have : c % 4 = 0 ∨ c % 4 = 1 ∨ c % 4 = 2 ∨ c % 4 = 3 := by omega
    obtain hm | hm | hm | hm := this
    · obtain rfl : c = 4 * w + 0 := by omega
      simp
    · obtain rfl : c = 4 * w + 1 := by omega
      simp [hc, hm]
    · obtain rfl : c = 4 * w + 2 := by omega
      simp [hc, hm]
    · obtain rfl : c = 4 * w + 3 := by omega
      simp [hc, hm]
  · rw [if_neg (by omega), if_neg (by omega), if_neg (by omega), if_neg (by omega), if_neg (by simp [hc])]

/-- A read of another word after a word write. -/
theorem memWord_memWrite_ne {m : Memory} (h : Memory.wf m = true) (w v : Nat) (d : Word) (be : ByteEnables) (hv : v ≠ w) :
    memWord (memWrite m w d be) v = memWord m v := by
  simp only [memWord, memByte_memWrite h]
  rw [if_neg (by omega), if_neg (by omega), if_neg (by omega), if_neg (by omega)]

/-- A read of a word after a full-word write to it gives the written word. -/
theorem memWord_memWrite_full {m : Memory} (h : Memory.wf m = true) (w : Nat) (d : Word) :
    memWord (memWrite m w d fullWord) w = d := by
  have e3 : (4 * w + 3) % 4 = 3 := by omega
  have e2 : (4 * w + 2) % 4 = 2 := by omega
  have e1 : (4 * w + 1) % 4 = 1 := by omega
  have e0 : (4 * w) % 4 = 0 := by omega
  have d3 : (4 * w + 3) / 4 = w := by omega
  have d2 : (4 * w + 2) / 4 = w := by omega
  have d1 : (4 * w + 1) / 4 = w := by omega
  have d0 : (4 * w) / 4 = w := by omega
  simp only [memWord, memByte_memWrite h, e3, e2, e1, e0, d3, d2, d1, d0, fullWord]
  rw [if_pos (by decide), if_pos (by decide), if_pos (by decide), if_pos (by decide)]
  apply BitVec.eq_of_getLsbD_eq
  intro i hi
  simp only [BitVec.getLsbD_append, BitVec.getLsbD_extractLsb']
  have : i < 8 ∨ (8 ≤ i ∧ i < 16) ∨ (16 ≤ i ∧ i < 24) ∨ (24 ≤ i ∧ i < 32) := by omega
  obtain h | ⟨h, h'⟩ | ⟨h, h'⟩ | ⟨h, h'⟩ := this
  · simp [h]
  · simp [show ¬ i < 8 by omega, show i - 8 < 8 by omega, show 8 + (i - 8) = i by omega]
  · simp [show ¬ i < 8 by omega, show ¬ i - 8 < 8 by omega, show i - 8 - 8 < 8 by omega,
      show 16 + (i - 8 - 8) = i by omega]
  · simp [show ¬ i < 8 by omega, show ¬ i - 8 < 8 by omega, show ¬ i - 8 - 8 < 8 by omega,
      show i - 8 - 8 - 8 < 8 by omega, show 24 + (i - 8 - 8 - 8) = i by omega]

/-! ### The array and the copies -/

/-- A read of a copy after a full-word merge gives the written word. -/
theorem copyOf_mergeCopy_full (w : Watched) (d : Word) (s : State) (h : Memory.wf s.ptu.copies = true) :
    copyOf w (mergeCopy w d fullWord s) = d := memWord_memWrite_full h _ _

/-- A read of the array after a full-word write gives the written word. -/
theorem arrayWord_arrayWrite_full (a : Address) (d : Word) (s : State) (h : Memory.wf s.ptu.array = true) :
    arrayWord a (arrayWrite a d fullWord s) = d := memWord_memWrite_full h _ _

/-- A write to one array word leaves every other word. -/
theorem arrayWord_arrayWrite_ne (a b : Address) (d : Word) (be : ByteEnables) (s : State) (h : Memory.wf s.ptu.array = true)
    (hb : b ≠ a) : arrayWord b (arrayWrite a d be s) = arrayWord b s :=
  memWord_memWrite_ne h _ _ _ _ (fun e => hb (BitVec.eq_of_toNat_eq e))

end Sys2Proof.Machine
end

