-- ==== Sys2Proof/Laws/Moves.lean ====
section
/-! SUPPORT. Everything an operation of the machine can do, said once: each operation is a sequence of the moves below, so
what every move keeps, every operation keeps. The later Laws files give one lemma for each operation. -/

namespace Sys2Proof.Machine

/-- A notice unit's state keeps the limits that another keeps (R165, R168, R169). -/
structure NtuFits (old new : Ntu) : Prop where
  queue : old.queue.length ≤ Config.noticeQueue → new.queue.length ≤ Config.noticeQueue
  drops : old.drops ≤ 65535 → new.drops ≤ 65535
  threshold : 1 ≤ old.threshold → 1 ≤ new.threshold

theorem NtuFits.refl (n : Ntu) : NtuFits n n := ⟨id, id, id⟩

theorem NtuFits.trans {a b c : Ntu} (h : NtuFits a b) (k : NtuFits b c) : NtuFits a c :=
  ⟨k.queue ∘ h.queue, k.drops ∘ h.drops, k.threshold ∘ h.threshold⟩

/-- A notice unit keeps what the processor writes to it: the consumer index, the threshold and the holdoff. -/
def NtuKeeps (old new : Ntu) : Prop :=
  new.consumer = old.consumer ∧ new.threshold = old.threshold ∧ new.holdoff = old.holdoff

/-- What a member word gives a position. -/
def memberFields (m : Member) : LineNo × Bool × Bool := (m.line, m.valid, m.initialSignIn)

/-- A group keeps what its header and its member words give it. -/
def GroupKeeps (old new : HuntGroup) : Prop :=
  new.config = old.config ∧ ∀ i : MemberPos, memberFields (new.members.get i) = memberFields (old.members.get i)

/-- The distribution engine keeps its call records, its parks and what the processor's tables give it. -/
structure DengKeeps (old new : Deng) : Prop where
  calls : new.calls = old.calls
  parks : new.parks = old.parks
  permissions : new.permissions = old.permissions
  confirmWindow : new.confirmWindow = old.confirmWindow
  parkTime : new.parkTime = old.parkTime
  groups : ∀ g : GroupNo, GroupKeeps (old.groups.get g) (new.groups.get g)

/-- The pass-through unit keeps the array, the copies, the operating state, the restart count and SA_BASE. -/
structure PtuKeeps (old new : Ptu) : Prop where
  array : new.array = old.array
  copies : new.copies = old.copies
  mode : new.mode = old.mode
  restartCount : new.restartCount = old.restartCount
  saBase : new.saBase = old.saBase

theorem PtuKeeps.refl (p : Ptu) : PtuKeeps p p := ⟨rfl, rfl, rfl, rfl, rfl⟩

/-- One indivisible change of the blocks other than PTU and RQU, made by no word of the processor's, with what is known where
it is made. -/
inductive Move : State → State → Prop where
  | reserve (s : State) (l : LineNo) (r : Option CallRef) :
      Move s (modShadow l (fun x => { x with reservation := r }) s)
  | lmon (s : State) (m : Lmon) (hs : m.shadows = s.lmon.shadows) (ho : m.idleOrder = s.lmon.idleOrder) :
      Move s { s with lmon := m }
  | addCall (s : State) (c : CallRecord) (hc : findCall c.ref s = none) (hp : parkedAs c.ref s = none)
      (hl : s.deng.calls.length < Config.callRecords) : Move s (addCall c s)
  | calls (s : State) (f : CallRecord → CallRecord) (h : ∀ c, (f c).ref = c.ref) :
      Move s { s with deng := { s.deng with calls := s.deng.calls.map f } }
  | removeCall (s : State) (r : CallRef) : Move s (removeCall r s)
  | parkFill (s : State) (n : ParkNo) (k : Park) (hn : s.deng.parks.get n = none) (hc : findCall k.ref s = none)
      (hp : parkedAs k.ref s = none) : Move s (putPark n (some k) s)
  | parkEdit (s : State) (n : ParkNo) (k k' : Park) (hn : s.deng.parks.get n = some k) (h : k'.ref = k.ref) :
      Move s (putPark n (some k') s)
  | parkFree (s : State) (n : ParkNo) : Move s (putPark n none s)
  | deng (s : State) (d : Deng) (h : DengKeeps s.deng d) : Move s { s with deng := d }
  | taken (s : State) (z : ZoneNo) (h : Holder) : Move s (zoneTaken z h s)
  | freed (s : State) (z : ZoneNo) : Move s (zoneFreed z s)
  | letting (s : State) (b : Bool) (z : ZoneNo) : Move s (zoneLetting b z s)
  | pctl (s : State) (p : Pctl) (h : p.holders = s.pctl.holders) (ht : p.targets = s.pctl.targets)
      (he : p.enabled = s.pctl.enabled) : Move s { s with pctl := p }
  | ctp (s : State) (c : Ctp) (hp : c.patterns = s.ctp.patterns) (hd : c.directory = s.ctp.directory) :
      Move s { s with ctp := c }
  | amon (s : State) (z : ZoneNo) (f : AmonZone → AmonZone) (h : ∀ a, (f a).fields = a.fields)
      (hc : ∀ a, (f a).blockCount = a.blockCount) : Move s (modAmon z f s)
  | chains (s : State) (f : ZoneNo → AmonZone → AmonZone) (h : ∀ z a, (f z a).fields = a.fields)
      (hc : ∀ y z a b, a.blockCount = b.blockCount → (f y a).blockCount = (f z b).blockCount) :
      Move s { s with amon := Vector.ofFn fun z => f z (s.amon.get z) }
  | regain (s : State) (z : ZoneNo) : Move s (regain z s)
  | ramp (s : State) (z : ZoneNo) (n : Nat) (h : (s.zos.zones.get z).rampAt ≠ none) : Move s (modZos z (rampStep n) s)
  | push (s : State) (v : Sample) (z : ZoneNo) (h : (s.pctl.holders.get z).isSome = true) : Move s (pushSample v z s)
  | slots (s : State) : Move s (formSlots s)
  | enables (s : State) : Move s (takeEnables s)
  | notice (s : State) (n : Notice) : Move s (raiseNotice n s)
  | note (s : State) (fs : List NotedFault) : Move s { s with ntu := { s.ntu with noted := fs } }
  | renew (s : State) (n : Ntu) (hf : NtuFits s.ntu n) (hk : NtuKeeps s.ntu n) :
      Move s (evalInterrupt { s with ntu := n })

/-- A move, or a change of PTU or RQU that keeps the array, the copies, the operating state, the restart count and SA_BASE. -/
inductive Act : State → State → Prop where
  | move {s t : State} (h : Move s t) : Act s t
  | ptu (s : State) (p : Ptu) (h : PtuKeeps s.ptu p) : Act s { s with ptu := p }
  | rqu (s : State) (r : Rqu) : Act s { s with rqu := r }

/-- A move, or a block taking from the copies what a word of the processor's gives it. -/
inductive Own : State → State → Prop where
  | move {s t : State} (h : Move s t) : Own s t
  | line (s : State) (l : LineNo) (x : LineState) (h : (s.lmon.shadows.get l).state ≠ x) : Own s (setLineState l x s)
  | lineConfig (s : State) (l : LineNo) (w : Word) : Own s (modShadow l (withLineConfig w) s)
  | deng (s : State) (d : Deng) (hc : d.calls = s.deng.calls) (hp : d.parks = s.deng.parks) : Own s { s with deng := d }
  | pctl (s : State) (p : Pctl) (h : p.holders = s.pctl.holders) : Own s { s with pctl := p }
  | ctp (s : State) (c : Ctp) : Own s { s with ctp := c }
  | amon (s : State) (z : ZoneNo) (f : AmonZone → AmonZone) (hc : ∀ a, (f a).blockCount = a.blockCount) : Own s (modAmon z f s)
  | gain (s : State) (z : ZoneNo) (g : GainFields) (h : g.gmax ≤ 96) : Own s (takeGain z g s)
  | links (s : State) : Own s (linkEnablesWritten s)
  | ntu (s : State) (n : Ntu) (hf : NtuFits s.ntu n) (hi : n.interrupt = s.ntu.interrupt)
      (hk : s.ptu.mode = .ready → n.producer = s.ntu.producer ∧ n.consumer = s.ntu.consumer) : Own s { s with ntu := n }
  | renew (s : State) (n : Ntu) (hf : NtuFits s.ntu n) : Own s (evalInterrupt { s with ntu := n })

/-- An owner's change, an act, or bytes stored in the array or in the copies. -/
inductive Write : State → State → Prop where
  | own {s t : State} (h : Own s t) : Write s t
  | act {s t : State} (h : Act s t) : Write s t
  | array (s : State) (a : Address) (d : Word) (be : ByteEnables) : Write s (arrayWrite a d be s)
  | merge (s : State) (w : Watched) (d : Word) (be : ByteEnables) : Write s (mergeCopy w d be s)

/-- A write, or one of the four changes that set the operating state: the release of the reset pin, READY, RESTART and the
fall of the reset pin. -/
inductive Jump : State → State → Prop where
  | write {s t : State} (h : Write s t) : Jump s t
  | release (s : State) (straps : BitVec 4) (h : s.ptu.mode = .resetLow) :
      Jump s { s with ptu := { s.ptu with mode := .scanning, saBase := straps } }
  | ready (s : State) (h : s.ptu.mode = .scanning) :
      Jump s { s with ptu := { s.ptu with mode := .ready }, ntu := { s.ntu with producer := s.ntu.consumer } }
  | restart (s : State) (n : SlotNo) : Jump s (restartBlocks n s)
  | pinLow (s : State) : Jump s (pinLow s)

/-- A sequence of changes of one kind. -/
def Seq (R : State → State → Prop) (s t : State) : Prop := Relation.ReflTransGen R s t

/-- A sequence of moves. -/
abbrev Moves : State → State → Prop := Seq Move

/-- A sequence of acts. -/
abbrev Acts : State → State → Prop := Seq Act

/-- A sequence of owners' changes. -/
abbrev Owns : State → State → Prop := Seq Own

/-- A sequence of writes. -/
abbrev Writes : State → State → Prop := Seq Write

/-- A sequence of jumps. -/
abbrev Jumps : State → State → Prop := Seq Jump

section Sequences

variable {R : State → State → Prop}

theorem Seq.refl (s : State) : Seq R s s := Relation.ReflTransGen.refl

theorem Seq.one {s t : State} (h : R s t) : Seq R s t := Relation.ReflTransGen.single h

theorem Seq.trans {s t u : State} (h : Seq R s t) (k : Seq R t u) : Seq R s u := Relation.ReflTransGen.trans h k

theorem Seq.then {s t u : State} (h : Seq R s t) (k : R t u) : Seq R s u := Relation.ReflTransGen.tail h k

/-- What every change keeps, a sequence of changes keeps. -/
theorem Seq.keep {P : State → Prop} (hP : ∀ s t, R s t → P s → P t) {s t : State} (h : Seq R s t) (hs : P s) : P t := by
  induction h with
  | refl => exact hs
  | tail _ hm ih => exact hP _ _ hm ih

/-- A fold of sequences is a sequence. -/
theorem Seq.foldl {α : Type} {f : State → α → State} (h : ∀ s x, Seq R s (f s x)) (xs : List α) (s : State) :
    Seq R s (xs.foldl f s) := by
  induction xs generalizing s with
  | nil => exact .refl s
  | cons x xs ih => exact (h s x).trans (ih _)

/-- A fold of sequences that needs a fact which every part of it keeps. -/
theorem Seq.foldl_of {α : Type} {f : State → α → State} {P : α → State → Prop}
    (h : ∀ s x, P x s → Seq R s (f s x)) (k : ∀ s x y, P y s → P y (f s x)) (xs : List α) (s : State)
    (hs : ∀ x ∈ xs, P x s) : Seq R s (xs.foldl f s) := by
  induction xs generalizing s with
  | nil => exact .refl s
  | cons x xs ih =>
    exact (h s x (hs x (by simp))).trans (ih _ fun y hy => k s x y (hs y (by simp [hy])))

/-- An if between two states. -/
theorem Seq.ite {c : Prop} [Decidable c] {s t u : State} (h : c → Seq R s t) (k : ¬ c → Seq R s u) :
    Seq R s (if c then t else u) := by
  split
  · exact h ‹_›
  · exact k ‹_›

end Sequences

theorem Moves.owns {s t : State} (h : Moves s t) : Owns s t :=
  h.keep (P := Owns s) (fun _ _ m k => k.then (.move m)) (.refl s)

theorem Moves.acts {s t : State} (h : Moves s t) : Acts s t :=
  h.keep (P := Acts s) (fun _ _ m k => k.then (.move m)) (.refl s)

theorem Acts.writes {s t : State} (h : Acts s t) : Writes s t :=
  h.keep (P := Writes s) (fun _ _ m k => k.then (.act m)) (.refl s)

theorem Owns.writes {s t : State} (h : Owns s t) : Writes s t :=
  h.keep (P := Writes s) (fun _ _ m k => k.then (.own m)) (.refl s)

theorem Writes.jumps {s t : State} (h : Writes s t) : Jumps s t :=
  h.keep (P := Jumps s) (fun _ _ m k => k.then (.write m)) (.refl s)

theorem Moves.writes {s t : State} (h : Moves s t) : Writes s t := Owns.writes (Moves.owns h)

theorem Moves.jumps {s t : State} (h : Moves s t) : Jumps s t := Writes.jumps (Moves.writes h)

/-! ### What each kind of change keeps -/

/-- A move keeps the queue, PTU and RQU. -/
theorem Move.fixed {s t : State} (h : Move s t) : t.pending = s.pending ∧ t.ptu = s.ptu ∧ t.rqu = s.rqu := by
  cases h with
  | letting b z => simp only [zoneLetting]; split <;> exact ⟨rfl, rfl, rfl⟩
  | freed z =>
    simp only [zoneFreed, freezeFreed]
    repeat' split
    all_goals exact ⟨rfl, rfl, rfl⟩
  | taken z x => simp only [zoneTaken, freezeTaken]; split <;> exact ⟨rfl, rfl, rfl⟩
  | notice n =>
    simp only [raiseNotice]
    repeat' split
    all_goals exact ⟨rfl, rfl, rfl⟩
  | slots => simp only [formSlots, and_self]
  | _ => exact ⟨rfl, rfl, rfl⟩

/-- An owner's change keeps the queue, PTU and RQU. -/
theorem Own.fixed {s t : State} (h : Own s t) : t.pending = s.pending ∧ t.ptu = s.ptu ∧ t.rqu = s.rqu := by
  cases h with
  | move m => exact m.fixed
  | _ => exact ⟨rfl, rfl, rfl⟩

/-- Owners' changes keep the queue, PTU and RQU. -/
theorem Owns.fixed {s t : State} (h : Owns s t) : t.pending = s.pending ∧ t.ptu = s.ptu ∧ t.rqu = s.rqu :=
  h.keep (P := fun u => u.pending = s.pending ∧ u.ptu = s.ptu ∧ u.rqu = s.rqu)
    (fun _ _ m e => ⟨m.fixed.1.trans e.1, m.fixed.2.1.trans e.2.1, m.fixed.2.2.trans e.2.2⟩) ⟨rfl, rfl, rfl⟩

/-- Moves keep the queue, PTU and RQU. -/
theorem Moves.fixed {s t : State} (h : Moves s t) : t.pending = s.pending ∧ t.ptu = s.ptu ∧ t.rqu = s.rqu :=
  Owns.fixed (Moves.owns h)

/-- An act keeps the queue, and what `PtuKeeps` says. -/
theorem Act.fixed {s t : State} (h : Act s t) : t.pending = s.pending ∧ PtuKeeps s.ptu t.ptu := by
  cases h with
  | move m => exact ⟨m.fixed.1, by rw [m.fixed.2.1]; exact .refl _⟩
  | ptu p h => exact ⟨rfl, h⟩
  | rqu r => exact ⟨rfl, .refl _⟩

/-- A write keeps the queue, the operating state, the restart count and SA_BASE. -/
theorem Write.fixed {s t : State} (h : Write s t) :
    t.pending = s.pending ∧ t.ptu.mode = s.ptu.mode ∧ t.ptu.restartCount = s.ptu.restartCount
      ∧ t.ptu.saBase = s.ptu.saBase := by
  cases h with
  | own m => exact ⟨m.fixed.1, by rw [m.fixed.2.1], by rw [m.fixed.2.1], by rw [m.fixed.2.1]⟩
  | act m => exact ⟨m.fixed.1, m.fixed.2.mode, m.fixed.2.restartCount, m.fixed.2.saBase⟩
  | _ => exact ⟨rfl, rfl, rfl, rfl⟩

/-- Writes keep the queue, the operating state, the restart count and SA_BASE. -/
theorem Writes.fixed {s t : State} (h : Writes s t) :
    t.pending = s.pending ∧ t.ptu.mode = s.ptu.mode ∧ t.ptu.restartCount = s.ptu.restartCount
      ∧ t.ptu.saBase = s.ptu.saBase :=
  h.keep (P := fun u => u.pending = s.pending ∧ u.ptu.mode = s.ptu.mode
      ∧ u.ptu.restartCount = s.ptu.restartCount ∧ u.ptu.saBase = s.ptu.saBase)
    (fun _ _ m e => ⟨m.fixed.1.trans e.1, m.fixed.2.1.trans e.2.1, m.fixed.2.2.1.trans e.2.2.1,
      m.fixed.2.2.2.trans e.2.2.2⟩) ⟨rfl, rfl, rfl, rfl⟩

/-- Jumps keep the queue of waiting commands. -/
theorem Jumps.pending {s t : State} (h : Jumps s t) : t.pending = s.pending :=
  h.keep (P := fun u => u.pending = s.pending) (fun _ _ j e => by
    cases j with
    | write m => exact m.fixed.1.trans e
    | _ => exact e) rfl

/-! ### Setters -/

theorem moves_modCall (r : CallRef) (f : CallRecord → CallRecord) (s : State) (h : ∀ c, (f c).ref = c.ref) :
    Moves s (modCall r f s) :=
  .one (.calls s _ fun c => by split <;> simp [h])

theorem moves_modHunt (r : CallRef) (f : HuntPart → HuntPart) (s : State) : Moves s (modHunt r f s) :=
  moves_modCall r _ s fun _ => rfl

theorem moves_modGroup (g : GroupNo) (f : HuntGroup → HuntGroup) (s : State) (h : ∀ x, GroupKeeps x (f x)) :
    Moves s (modGroup g f s) := by
  refine .one (.deng s _ ⟨rfl, rfl, rfl, rfl, rfl, fun k => ?_⟩)
  rw [get_modAt]
  split
  · next e => rw [e]; exact h _
  · exact ⟨rfl, fun _ => rfl⟩

/-- A change of a group that leaves its configuration and its members. -/
theorem groupKeeps_rfl (x : HuntGroup) (n : Bool) (p : MemberPos) (c : Bool) :
    GroupKeeps x { x with night := n, huntPointer := p, floorCondition := c } := ⟨rfl, fun _ => rfl⟩

theorem moves_modMember (g : GroupNo) (i : MemberPos) (f : Member → Member) (s : State)
    (h : ∀ m, memberFields (f m) = memberFields m) : Moves s (modMember g i f s) := by
  refine moves_modGroup g _ s fun x => ⟨rfl, fun k => ?_⟩
  show memberFields ((modAt x.members i f).get k) = _
  rw [get_modAt]
  split
  · next e => rw [e]; exact h _
  · rfl

theorem owns_modGroup (g : GroupNo) (f : HuntGroup → HuntGroup) (s : State) : Owns s (modGroup g f s) :=
  .one (.deng s _ rfl rfl)

theorem owns_modMember (g : GroupNo) (i : MemberPos) (f : Member → Member) (s : State) : Owns s (modMember g i f s) :=
  .one (.deng s _ rfl rfl)

theorem moves_putPage (p : PageNo) (r : Option PageRec) (s : State) : Moves s (putPage p r s) := .one (.pctl s _ rfl rfl rfl)

theorem moves_modPage (p : PageNo) (f : PageRec → PageRec) (s : State) : Moves s (modPage p f s) := .one (.pctl s _ rfl rfl rfl)

theorem moves_modContext (p : PageNo) (f : Context → Context) (s : State) : Moves s (modContext p f s) := .one (.ctp s _ rfl rfl)

theorem moves_putFetch (p : PageNo) (f : Option Fetch) (s : State) : Moves s (putFetch p f s) := .one (.ctp s _ rfl rfl)

theorem moves_putOverrun (z : ZoneNo) (b : Bool) (s : State) : Moves s (putOverrun z b s) := .one (.ctp s _ rfl rfl)

theorem acts_modSlot (n : SlotNo) (f : SlotRec → SlotRec) (s : State) : Acts s (modSlot n f s) := .one (.rqu s _)

theorem moves_modAmon (z : ZoneNo) (f : AmonZone → AmonZone) (s : State) (h : ∀ a, (f a).fields = a.fields)
    (hc : ∀ a, (f a).blockCount = a.blockCount) : Moves s (modAmon z f s) := .one (.amon s z f h hc)

theorem moves_chains (f : ZoneNo → AmonZone → AmonZone) (s : State) (h : ∀ z a, (f z a).fields = a.fields)
    (hc : ∀ y z a b, a.blockCount = b.blockCount → (f y a).blockCount = (f z b).blockCount) :
    Moves s { s with amon := Vector.ofFn fun z => f z (s.amon.get z) } := .one (.chains s f h hc)

/-! ### Notices and faults -/

theorem moves_raiseNotice (n : Notice) (s : State) : Moves s (raiseNotice n s) := .one (.notice s n)

theorem moves_raiseAll (ns : List Notice) (s : State) : Moves s (raiseAll ns s) :=
  Seq.foldl (fun s n => moves_raiseNotice n s) ns s

theorem moves_addNote (f : NotedFault) (s : State) : Moves s (addNote f s) :=
  .one (.note s _)

theorem moves_noteFault (f : NotedFault) (s : State) : Moves s (noteFault f s) :=
  Seq.ite (fun _ => .refl s) (fun _ => moves_addNote f s)

theorem moves_stepFault (region : FaultRegion) (index step : Nat) (s : State) (field : FaultField) :
    Moves s (stepFault region index step s field) := by
  unfold stepFault
  split
  · exact moves_noteFault _ s
  · exact moves_raiseNotice _ s

theorem moves_configFault (region : FaultRegion) (index : Nat) (s : State) (field : FaultField) :
    Moves s (configFault region index s field) := moves_stepFault region index 0 s field

theorem moves_configFaults (region : FaultRegion) (index : Nat) (fields : List FaultField) (s : State) :
    Moves s (configFaults region index fields s) :=
  Seq.foldl (fun s f => moves_configFault region index s f) fields s

/-- A raised notice only changes the notice unit, within its limits. -/
theorem raiseNotice_fits (n : Notice) (s : State) :
    raiseNotice n s = { s with ntu := (raiseNotice n s).ntu } ∧ NtuFits s.ntu (raiseNotice n s).ntu
      ∧ NtuKeeps s.ntu (raiseNotice n s).ntu := by
  unfold raiseNotice
  split
  · split
    · refine ⟨rfl, ⟨id, fun h => ?_, id⟩, rfl, rfl, rfl⟩
      dsimp only
      split <;> omega
    · next h =>
      refine ⟨rfl, ⟨fun _ => ?_, id, id⟩, rfl, rfl, rfl⟩
      simp only [saturated, Bool.or_eq_true, decide_eq_true_eq, not_or, not_le] at h
      simp only [List.length_append, List.length_singleton]
      omega
  · exact ⟨rfl, .refl _, rfl, rfl, rfl⟩

/-- The end of saturation only changes the notice unit, within its limits. -/
theorem endSaturation_fits (s : State) :
    endSaturation s = { s with ntu := (endSaturation s).ntu } ∧ NtuFits s.ntu (endSaturation s).ntu
      ∧ NtuKeeps s.ntu (endSaturation s).ntu := by
  unfold endSaturation
  split
  · next h =>
    refine ⟨rfl, ⟨fun _ => ?_, fun _ => Nat.zero_le _, id⟩, rfl, rfl, rfl⟩
    simp only [saturated, Bool.and_eq_true, Bool.not_eq_true', Bool.or_eq_false_iff, decide_eq_false_iff_not,
      not_le] at h
    simp only [List.length_append, List.length_singleton]
    omega
  · exact ⟨rfl, .refl _, rfl, rfl, rfl⟩

/-- The interrupt evaluated after a change of the notice unit within its limits. -/
theorem owns_evalInterrupt_of (s t : State) (h : t = { s with ntu := t.ntu }) (hf : NtuFits s.ntu t.ntu) :
    Owns s (evalInterrupt t) := by
  rw [h]
  exact .one (.renew s t.ntu hf)

/-- The interrupt evaluated after a change of the notice unit that keeps what the processor writes to it. -/
theorem moves_evalInterrupt_of (s t : State) (h : t = { s with ntu := t.ntu }) (hf : NtuFits s.ntu t.ntu)
    (hk : NtuKeeps s.ntu t.ntu) : Moves s (evalInterrupt t) := by
  rw [h]
  exact .one (.renew s t.ntu hf hk)

theorem moves_evalInterrupt (s : State) : Moves s (evalInterrupt s) :=
  moves_evalInterrupt_of s s rfl (.refl _) ⟨rfl, rfl, rfl⟩

/-! ### Watched writes -/

theorem acts_accessStart (s : State) : Acts s (accessStart s) :=
  .one (.ptu s _ ⟨rfl, rfl, rfl, rfl, rfl⟩)

theorem writes_arrayWrite (a : Address) (d : Word) (be : ByteEnables) (s : State) : Writes s (arrayWrite a d be s) :=
  .one (.array s a d be)

theorem writes_plainArrayWrite (a : Address) (d : Word) (be : ByteEnables) (s : State) :
    Writes s (plainArrayWrite a d be s) := (acts_accessStart s).writes.trans (writes_arrayWrite a d be _)

/-- A watched write is writes when its owner's handling is. -/
theorem writes_watchedWrite (w : Watched) (d : Word) (be : ByteEnables) (owner : State → State) (s : State)
    (h : ∀ s, Writes s (owner s)) : Writes s (watchedWrite w d be owner s) := by
  have h1 : Writes s (arrayWrite (saAddress s.ptu.saBase (saOffset w)) d be (accessStart s)) :=
    (acts_accessStart s).writes.trans (writes_arrayWrite _ d be _)
  have h2 := (h1.then (.merge _ w d be)).trans (h _)
  unfold watchedWrite
  split
  · exact h1
  · exact Seq.ite (fun _ => h2) (fun _ => h1)
  · exact h2

end Sys2Proof.Machine
end

