-- ==== Sys2Proof/Laws/PageMoves.lean ====
section
/-! SUPPORT. The operations of the page controller, the ambient monitor, the zone output stage and the player are
sequences of moves: one lemma for each operation. -/

namespace Sys2Proof.Machine

/-! ### Level.lean -/

theorem moves_regain (z : ZoneNo) (s : State) : Moves s (regain z s) := .one (.regain s z)

theorem moves_zoneLetting (b : Bool) (z : ZoneNo) (s : State) : Moves s (zoneLetting b z s) := .one (.letting s b z)

/-- A sample goes into a held zone's FIFO; every zone keeps its holder. -/
theorem moves_pushHeld (v : Sample) (zs : List ZoneNo) (s : State)
    (h : ∀ z ∈ zs, (s.pctl.holders.get z).isSome = true) :
    Moves s (zs.foldl (fun s z => pushSample v z s) s) :=
  Seq.foldl_of (R := Move) (f := fun s z => pushSample v z s) (P := fun z s => (s.pctl.holders.get z).isSome = true)
    (fun s z hz => .one (.push s v z hz)) (fun _ _ _ hy => hy) zs s h

/-- A zone that a page holds has a holder. -/
theorem holder_of_heldZones {p : PageNo} {s : State} {z : ZoneNo} (h : z ∈ heldZones p s) :
    (s.pctl.holders.get z).isSome = true := by
  simp only [heldZones, List.mem_filter] at h
  have h2 := h.2
  split at h2
  · next e => simp [e]
  · cases h2

/-! ### Player contexts -/

theorem moves_startTone (p : PageNo) (u : ToneUse) (t : PatternNo) (s : State) : Moves s (startTone p u t s) :=
  moves_modContext p _ s

theorem moves_requestFetch (p : PageNo) (s : State) : Moves s (requestFetch p s) := by
  unfold requestFetch
  repeat' split
  all_goals first
    | exact .refl s
    | exact (moves_modContext _ _ s).trans (moves_putFetch _ _ _)

theorem moves_startClip (p : PageNo) (c : ClipNo) (s : State) : Moves s (startClip p c s) :=
  (moves_modContext p _ s).trans (moves_requestFetch p _)

theorem moves_stopContext (p : PageNo) (s : State) : Moves s (stopContext p s) :=
  (moves_modContext p _ s).trans (moves_putFetch p _ _)

/-! ### Pages made and freed -/

theorem moves_pageNotice (p : PageNo) (r : PageRec) (v : PageNoticeState) (c : Option EndCause) (s : State) :
    Moves s (pageNotice p r v c s) := moves_raiseNotice _ s

theorem moves_makePage (p : PageNo) (r : PageRec) (s : State) : Moves s (makePage p r s) := by
  unfold makePage
  refine Seq.trans ?_ (moves_pageNotice _ _ _ _ _)
  refine Seq.trans ?_ (moves_modContext _ _ _)
  exact .one (.pctl s _ rfl rfl rfl)

theorem moves_offerRecord (s : State) : Moves s (offerRecord s).1 := by
  unfold offerRecord
  split
  · refine Seq.trans ?_ (moves_makePage _ _ _)
    exact .one (.pctl s _ rfl rfl rfl)
  · exact .refl s

theorem moves_freePageRecord (p : PageNo) (r : PageRec) (s : State) : Moves s (freePageRecord p r s).1 := by
  unfold freePageRecord
  refine Seq.trans ?_ (moves_offerRecord _)
  refine Seq.trans ?_ (moves_pageNotice _ _ _ _ _)
  refine Seq.trans ?_ (moves_stopContext _ _)
  exact .one (.pctl s _ rfl rfl rfl)

theorem moves_freeIfEmptied (p : PageNo) (s : State) : Moves s (freeIfEmptied p s).1 := by
  unfold freeIfEmptied
  split
  · split
    · exact moves_freePageRecord _ _ s
    · exact .refl s
  · exact .refl s

/-! ### Acquisition -/

/-- Collecting over a list is moves when each part is. -/
theorem moves_collect {α : Type} (f : α → State → State × List PageTask) (h : ∀ x s, Moves s (f x s).1) (xs : List α)
    (s : State) : Moves s (collect f xs s).1 := by
  suffices H : ∀ (acc : State × List PageTask), Moves acc.1
      (xs.foldl (fun acc x => let r := f x acc.1; (r.1, acc.2 ++ r.2)) acc).1 from H (s, [])
  induction xs with
  | nil => intro acc; exact .refl _
  | cons x xs ih =>
    intro acc
    exact (h x acc.1).trans (ih ((f x acc.1).1, acc.2 ++ (f x acc.1).2))

theorem moves_takeZone (p : PageNo) (r : PageRec) (z : ZoneNo) (s : State) : Moves s (takeZone p r z s).1 := by
  unfold takeZone
  split
  · exact .one (.taken s z _)
  · refine Seq.trans ?_ (moves_freeIfEmptied _ _)
    refine Seq.then ?_ (.taken _ z _)
    exact Seq.ite (fun _ => moves_raiseNotice _ s) (fun _ => .refl s)

theorem moves_enterActive (p : PageNo) (s : State) : Moves s (enterActive p s).1 := by
  unfold enterActive
  split
  · exact .refl s
  · dsimp only
    repeat' split
    all_goals dsimp only
    all_goals first
      | refine Seq.trans ?_ (moves_modContext _ _ _)
      | refine Seq.trans ?_ (moves_startClip _ _ _)
    all_goals
      refine Seq.trans ?_ (moves_pageNotice _ _ _ _ _)
      exact moves_modPage _ _ s

theorem moves_leavePending (p : PageNo) (s : State) : Moves s (leavePending p s).1 := by
  unfold leavePending
  split
  · exact .refl s
  · dsimp only
    split
    · dsimp only
      refine Seq.trans ?_ (moves_startTone _ _ _ _)
      refine Seq.trans ?_ (moves_pageNotice _ _ _ _ _)
      refine Seq.trans ?_ (moves_modPage _ _ _)
      exact moves_modPage _ _ s
    · refine Seq.trans ?_ (moves_enterActive _ _)
      exact moves_modPage _ _ s

theorem moves_visitPage (p : PageNo) (s : State) : Moves s (visitPage p s).1 := by
  unfold visitPage
  split
  · exact .refl s
  · next r _ =>
    split
    · have h := moves_collect (takeZone p r) (moves_takeZone p r) (zonesToTake r s) s
      dsimp only
      generalize collect (takeZone p r) (zonesToTake r s) s = a at h ⊢
      split
      · exact h.trans (moves_leavePending p a.1)
      · exact h
    · exact .refl s

theorem moves_acquisitionPass (s : State) : Moves s (acquisitionPass s).1 := moves_collect _ moves_visitPage _ s

/-! ### Ends -/

theorem moves_zeroReport (z : ZoneNo) (s : State) : Moves s (zeroReport z s).1 := by
  unfold zeroReport
  split
  · split
    · exact (Seq.one (.freed s z)).trans (moves_freeIfEmptied _ _)
    · exact .refl s
  · exact .refl s

theorem moves_clearParkLink (n : ParkNo) (p : PageNo) (s : State) : Moves s (clearParkLink n p s) := by
  unfold clearParkLink
  split
  · next k hk =>
    split
    · exact .one (.parkEdit s n k _ hk rfl)
    · exact .refl s
  · exact .refl s

theorem moves_reportOwnEnd (p : PageNo) (r : PageRec) (c : EndCause) (s : State) : Moves s (reportOwnEnd p r c s) := by
  unfold reportOwnEnd
  split
  · exact Seq.ite (fun _ => .refl s) (fun _ => moves_clearParkLink _ _ s)
  · exact .refl s

theorem moves_takeEndCause (p : PageNo) (c : EndCause) (s : State) : Moves s (takeEndCause p c s).1 := by
  unfold takeEndCause
  split
  · exact .refl s
  · next r _ =>
    split
    · exact .refl s
    · dsimp only
      split
      · refine Seq.trans ?_ (moves_freePageRecord _ _ _)
        refine Seq.trans ?_ (moves_reportOwnEnd _ _ _ _)
        exact moves_putPage _ _ s
      · refine Seq.trans ?_ (Seq.foldl (fun s z => moves_zoneLetting true z s) _ _)
        refine Seq.trans ?_ (moves_pageNotice _ _ _ _ _)
        refine Seq.trans ?_ (moves_putPage _ _ _)
        refine Seq.trans ?_ (moves_reportOwnEnd _ _ _ _)
        exact moves_putPage _ _ s

theorem moves_pageTask (t : PageTask) (s : State) : Moves s (pageTask t s).1 := by
  cases t with
  | pass => exact moves_acquisitionPass s
  | zero z => exact moves_zeroReport z s
  | finish p c => exact moves_takeEndCause p c s

theorem moves_runTasks (n : Nat) : ∀ (ts : List PageTask) (s : State), Moves s (runTasks n ts s) := by
  induction n with
  | zero => intro ts s; exact .refl s
  | succ n ih =>
    intro ts s
    cases ts with
    | nil => exact .refl s
    | cons t ts => exact (moves_pageTask t s).trans (ih _ _)

/-- Everything PCTL does in settling an event is moves. -/
theorem moves_settle (ts : List PageTask) (s : State) : Moves s (settle ts s) := moves_runTasks _ ts s

theorem moves_endPage (p : PageNo) (c : EndCause) (s : State) : Moves s (endPage p c s) := moves_settle _ s

/-! ### Wanted sets -/

theorem moves_reviseZone (p : PageNo) (r : PageRec) (why : ZoneLostReason) (z : ZoneNo) (s : State) :
    Moves s (reviseZone p r why z s) := by
  unfold reviseZone
  repeat' split
  all_goals first
    | exact .refl s
    | exact moves_zoneLetting _ _ s
    | exact (moves_raiseNotice _ s).trans (moves_zoneLetting _ _ _)

theorem moves_refreshPage (why : ZoneLostReason) (p : PageNo) (s : State) : Moves s (refreshPage why p s).1 := by
  unfold refreshPage
  split
  · exact .refl s
  · split
    · dsimp only
      split
      · exact .refl s
      · exact (moves_putPage p _ s).trans (Seq.foldl (fun s z => moves_reviseZone p _ why z s) _ _)
    · exact .refl s

theorem moves_refreshWanted (why : ZoneLostReason) (f : PageRec → Bool) (s : State) :
    Moves s (refreshWanted why f s) :=
  (moves_collect _ (moves_refreshPage why) _ s).trans (moves_settle _ _)

theorem moves_loudChanged (s : State) : Moves s (loudChanged s) := moves_refreshWanted _ _ s

theorem moves_disableHeld (z : ZoneNo) (s : State) : Moves s (disableHeld z s).1 := by
  unfold disableHeld
  split
  · exact .refl s
  · refine Seq.trans ?_ (moves_freeIfEmptied _ _)
    refine Seq.then ?_ (.freed _ z)
    exact Seq.ite (fun _ => moves_raiseNotice _ s) (fun _ => .refl s)

theorem owns_setZoneEnable (z : ZoneNo) (b : Bool) (s : State) : Owns s (setZoneEnable z b s) := by
  unfold setZoneEnable
  split
  · exact .refl s
  · have h : Owns s { s with pctl := { s.pctl with enabled := putAt s.pctl.enabled z b } } := .one (.pctl s _ rfl)
    dsimp only
    refine Seq.trans ?_ (moves_settle _ _).owns
    refine Seq.trans ?_ (moves_collect _ (moves_refreshPage _) _ _).owns
    split
    · exact h
    · exact h.trans (moves_disableHeld z _).owns

/-! ### Floor pages and requests -/

theorem moves_makeAccepted (p : PageNo) (r : PageRec) (s : State) : Moves s (makeAccepted p r s) :=
  (moves_makePage p r s).trans (moves_settle _ _)

theorem moves_startFloorPage (g : GroupNo) (s : State) : Moves s (startFloorPage g s) := by
  unfold startFloorPage
  split
  · exact (moves_makePage _ _ s).trans (moves_settle _ _)
  · exact Seq.ite (fun _ => .refl s) (fun _ => .one (.pctl s _ rfl rfl rfl))

theorem moves_linkedEnd (o : PageOrigin) (s : State) : Moves s (linkedEnd o s) := by
  unfold linkedEnd
  split
  · exact moves_endPage _ _ s
  · exact .refl s

theorem moves_endFloorPage (g : GroupNo) (s : State) : Moves s (endFloorPage g s) := by
  unfold endFloorPage
  split
  · exact moves_endPage _ _ s
  · exact .one (.pctl s _ rfl rfl rfl)

/-! ### Noise.lean -/

theorem moves_setWindow (z : ZoneNo) (w : WindowState) (lc : Option Nat) (s : State) :
    Moves s (setWindow z w lc s) := by
  unfold setWindow
  dsimp only
  split
  · exact .refl s
  · have h := ((moves_modAmon z (fun a => { a with window := w }) s (fun _ => rfl) fun _ => rfl).trans
      (moves_raiseNotice (.noiseState z (s.amon.get z).window w (noiseLevel (s.amon.get z)) lc) _)).trans
      (moves_regain z _)
    split
    · exact h
    · exact h.trans (moves_loudChanged _)

/-- The end of a block keeps a zone's fields, and starts the next block empty when it was due. -/
theorem blockEnded_spec (s : State) (a : AmonZone) :
    (blockEnded s a).fields = a.fields
      ∧ (blockEnded s a).blockCount = if blockLength ≤ a.blockCount then 0 else a.blockCount := by
  unfold blockEnded blockDue
  by_cases h : blockLength ≤ a.blockCount <;> simp only [h, decide_true, decide_false, Bool.not_true, Bool.not_false,
    if_true, if_false, and_self, Bool.false_eq_true]
  split <;> exact ⟨rfl, rfl⟩

theorem moves_blockHandedOn (z : ZoneNo) (a : AmonZone) (s : State) : Moves s (blockHandedOn z a s) := by
  unfold blockHandedOn
  dsimp only
  split
  · refine Seq.trans ?_ (moves_setWindow _ _ _ _)
    exact Seq.ite (fun _ => .refl s) (fun _ => moves_regain _ _)
  · exact .refl s

theorem nodup_zoneOrder (first : List ZoneNo) : (zoneOrder first).Nodup := by
  refine List.Nodup.append first.nodup_dedup ((List.nodup_finRange 24).filter _) fun z h k => ?_
  simp_all

theorem mem_zoneOrder (first : List ZoneNo) (z : ZoneNo) : z ∈ zoneOrder first := by
  simp [zoneOrder, Classical.em]

theorem moves_completeBlocks (order : List ZoneNo) (s : State) : Moves s (completeBlocks order s) := by
  unfold completeBlocks
  refine Seq.trans (moves_chains (fun _ => blockEnded s) s (fun _ a => (blockEnded_spec s a).1) fun _ _ a b e => ?_)
    (Seq.foldl (fun t z => moves_blockHandedOn z _ t) _ _)
  rw [(blockEnded_spec s a).2, (blockEnded_spec s b).2, e]

theorem owns_modAmon (z : ZoneNo) (f : AmonZone → AmonZone) (s : State) (hc : ∀ a, (f a).blockCount = a.blockCount) :
    Owns s (modAmon z f s) := .one (.amon s z f hc)

theorem owns_amonWritten (z : ZoneNo) (f : AmonFields) (fs : List FaultField) (s : State) :
    Owns s (amonWritten z f fs s) := by
  unfold amonWritten
  refine Seq.trans ?_ (moves_setWindow _ _ _ _).owns
  refine Seq.trans ?_ (moves_configFaults _ _ _ _).owns
  exact owns_modAmon z _ s fun _ => rfl

theorem owns_amonScanned (z : ZoneNo) (f : AmonFields) (fs : List FaultField) (s : State) :
    Owns s (amonScanned z f fs s) := by
  unfold amonScanned
  refine Seq.trans ?_ (moves_configFaults _ _ _ _).owns
  exact owns_modAmon z _ s fun _ => rfl

/-! ### Zones.lean -/

/-- A decoded GMAX is at most 96 (R132). -/
theorem decodeGain_gmax (w0 w1 : Word) : (decodeGain w0 w1).gmax ≤ 96 := Nat.min_le_right _ _

theorem owns_zosWritten (z : ZoneNo) (g : GainFields) (fs : List FaultField) (s : State) (h : g.gmax ≤ 96) :
    Owns s (zosWritten z g fs s) := by
  unfold zosWritten
  refine Seq.trans ?_ (moves_settle _ _).owns
  refine Seq.then ?_ (.gain _ z g h)
  exact (moves_configFaults _ _ _ s).owns

theorem owns_zoneRecordWritten (z : ZoneNo) (i : Fin 8) (s : State) : Owns s (zoneRecordWritten z i s) := by
  refine Seq.trans (Seq.trans ?_ (owns_amonWritten z _ _ _)) (owns_zosWritten z _ _ _ (decodeGain_gmax _ _))
  exact Seq.ite (fun _ => owns_setZoneEnable _ _ s) (fun _ => .refl s)

theorem owns_zoneRecordScanned (z : ZoneNo) (s : State) : Owns s (zoneRecordScanned z s) :=
  ((owns_setZoneEnable z _ s).trans (owns_amonScanned z _ _ _)).trans (owns_zosWritten z _ _ _ (decodeGain_gmax _ _))

theorem owns_targetWritten (t : TargetNo) (s : State) : Owns s (targetWritten t s) := by
  unfold targetWritten
  refine Seq.trans ?_ (moves_refreshWanted _ _ _).owns
  exact .one (.pctl s _ rfl)

theorem owns_linkEnablesWritten (s : State) : Owns s (linkEnablesWritten s) := .one (.links s)

theorem moves_checkUnderrun (s : State) (p : PageNo) : Moves s (checkUnderrun s p) := by
  unfold checkUnderrun
  repeat' split
  all_goals first
    | exact .refl s
    | exact (moves_modContext _ _ s).trans (moves_raiseNotice _ _)

theorem moves_takeEnables (s : State) : Moves s (takeEnables s) := .one (.enables s)

theorem moves_formSlots (s : State) : Moves s (formSlots s) := .one (.slots s)

theorem moves_allowFrame (s : State) : Moves s (allowFrame s) := .one (.ctp s _ rfl rfl)

/-! ### Clips.lean -/

theorem moves_tonePassEnd (p : PageNo) (c : ToneCtx) (s : State) : Moves s (tonePassEnd p c s).1 := by
  unfold tonePassEnd
  dsimp only
  repeat' split
  all_goals first
    | exact (moves_stopContext p s).trans (moves_enterActive p _)
    | exact moves_stopContext p s
    | exact moves_modContext p _ s

theorem moves_toneAdvance (p : PageNo) (c : ToneCtx) (s : State) : Moves s (toneAdvance p c s).1 := by
  unfold toneAdvance
  dsimp only
  repeat' split
  all_goals first
    | exact .refl s
    | exact moves_modContext p _ s
    | exact moves_tonePassEnd p _ s

theorem moves_clipAdvance (p : PageNo) (c : ClipCtx) (s : State) : Moves s (clipAdvance p c s).1 := by
  unfold clipAdvance
  dsimp only
  repeat' split
  all_goals first
    | exact .refl s
    | exact moves_modContext p _ s
    | exact (moves_modContext p _ s).trans (moves_requestFetch p _)
    | exact moves_stopContext p s

theorem moves_deliver (p : PageNo) (v : Sample) (s : State) : Moves s (deliver p v s) :=
  (moves_modContext p _ s).trans (moves_pushHeld v _ _ fun _ h => holder_of_heldZones h)

theorem moves_produce (p : PageNo) (s : State) : Moves s (produce p s).1 := by
  unfold produce
  split
  · exact (moves_deliver p _ s).trans (moves_toneAdvance p _ _)
  · split
    · exact (moves_deliver p _ s).trans (moves_clipAdvance p _ _)
    · exact .refl s
  · exact .refl s

theorem moves_fillBuffer (p : PageNo) (f : Fetch) (w : Word) (ws : List Word) (c : ClipCtx) (s : State) :
    Moves s (fillBuffer p f w ws c s) := by
  refine Seq.trans ?_ (moves_requestFetch p _)
  exact Seq.ite (fun _ => (moves_modContext p _ s).trans (moves_raiseNotice _ _)) (fun _ => moves_modContext p _ s)

theorem moves_landBlock (p : PageNo) (f : Fetch) (ws : List Word) (s : State) : Moves s (landBlock p f ws s) := by
  unfold landBlock
  dsimp only
  split
  · split
    · exact (moves_putFetch p none s).trans (moves_fillBuffer _ _ _ _ _ _)
    · exact (((moves_putFetch p none s).trans (moves_raiseNotice _ _)).trans (moves_stopContext p _)).trans
        (moves_endPage p _ _)
  · exact (moves_putFetch p none s).trans (moves_requestFetch p _)

theorem owns_patternDecoded (t : PatternNo) (s : State) : Owns s (patternDecoded t s) := .one (.ctp s _)

theorem owns_patternWritten (t : PatternNo) (s : State) : Owns s (patternWritten t s) :=
  (owns_patternDecoded t s).trans (Moves.owns (Seq.foldl (fun s _ => moves_stepFault _ _ _ s _) _ _))

theorem owns_directoryWritten (c : ClipNo) (s : State) : Owns s (directoryWritten c s) := by
  unfold directoryWritten
  refine Seq.trans ?_ (moves_configFaults _ _ _ _).owns
  exact .one (.ctp s _)

/-- A live sample at zones that have holders. -/
theorem moves_liveToZones (p : PageNo) (k : LiveNo) (v : Sample) (zs : List ZoneNo) (s : State)
    (h : ∀ z ∈ zs, (s.pctl.holders.get z).isSome = true) : Moves s (zs.foldl (liveToZone p k v) s) := by
  refine Seq.foldl_of (R := Move) (P := fun z s => (s.pctl.holders.get z).isSome = true) ?_ ?_ zs s h
  · intro s z hz
    unfold liveToZone
    dsimp only
    repeat' split
    all_goals first
      | exact .refl s
      | exact (moves_raiseNotice _ s).trans (moves_putOverrun _ _ _)
      | exact (Seq.one (.push s v z hz)).trans (moves_putOverrun _ _ _)
      | exact .one (.push s v z hz)
  · intro s x y hy
    have e : (liveToZone p k v s x).pctl = s.pctl := by
      unfold liveToZone raiseNotice
      dsimp only
      repeat' split
      all_goals rfl
    rw [e]; exact hy

theorem moves_liveSample (k : LiveNo) (s : State) (v : Sample) : Moves s (liveSample k s v) := by
  unfold liveSample
  split
  · exact Seq.ite (fun _ => moves_liveToZones _ _ _ _ s fun _ h => holder_of_heldZones h) (fun _ => .refl s)
  · exact .refl s

theorem writes_liveWrite (k : LiveNo) (i : Fin 128) (d : Word) (be : ByteEnables) (s : State) :
    Writes s (liveWrite k i d be s) := by
  have h := writes_plainArrayWrite (saAddress s.ptu.saBase (saOffset (.live k i))) d be s
  exact Seq.ite (fun _ => h.trans (Moves.writes (Seq.foldl (fun s v => moves_liveSample k s v) _ _))) (fun _ => h)

end Sys2Proof.Machine
end

