-- ==== Sys2Proof/Laws/CallMoves.lean ====
section
/-! SUPPORT. The operations of the distribution engine, the line monitor and the request unit are sequences of moves: one
lemma for each operation. -/

namespace Sys2Proof.Machine

/-! ### Calls.lean -/

theorem moves_setFloor (g : GroupNo) (b : Bool) (s : State) :
    Moves s (modGroup g (fun h => { h with floorCondition := b }) s) := moves_modGroup g _ s fun _ => ⟨rfl, fun _ => rfl⟩

theorem moves_setService (g : GroupNo) (b : Bool) (s : State) :
    Moves s (modGroup g (fun h => { h with night := b }) s) := moves_modGroup g _ s fun _ => ⟨rfl, fun _ => rfl⟩

theorem moves_setPointer (g : GroupNo) (i : MemberPos) (s : State) :
    Moves s (modGroup g (fun h => { h with huntPointer := i }) s) := moves_modGroup g _ s fun _ => ⟨rfl, fun _ => rfl⟩

theorem moves_evalFloorOver (cs : List CallRecord) (g : GroupNo) (s : State) : Moves s (evalFloorOver cs g s) := by
  unfold evalFloorOver
  dsimp only
  split
  · exact .refl s
  · split
    · exact (moves_setFloor g _ s).trans (moves_startFloorPage g _)
    · exact (moves_setFloor g _ s).trans (moves_endFloorPage g _)

theorem moves_evalFloor (g : GroupNo) (s : State) : Moves s (evalFloor g s) := moves_evalFloorOver _ g s

theorem moves_addTried (r : CallRef) (g : GroupNo) (l : LineNo) (s : State) : Moves s (addTried r g l s) := by
  unfold addTried
  split
  · exact moves_modHunt r _ s
  · exact .refl s

theorem moves_reserve (l : LineNo) (r : Option CallRef) (s : State) :
    Moves s (modShadow l (fun x => { x with reservation := r }) s) := .one (.reserve s l r)

theorem moves_dropReservation (r : CallRef) (l : LineNo) (s : State) : Moves s (dropReservation r l s) := by
  unfold dropReservation
  refine Seq.trans ?_ (moves_modCall _ _ _ fun _ => rfl)
  exact moves_reserve l none s

theorem moves_placeOffer (r : CallRef) (g : GroupNo) (s : State) (i : MemberPos) : Moves s (placeOffer r g s i) := by
  unfold placeOffer
  dsimp only
  refine Seq.trans ?_ (moves_raiseNotice _ _)
  split
  · refine Seq.trans ?_ (moves_setPointer _ _ _)
    refine Seq.trans ?_ (moves_modCall _ _ _ fun _ => rfl)
    exact moves_reserve _ _ s
  · refine Seq.trans ?_ (moves_modCall _ _ _ fun _ => rfl)
    exact moves_reserve _ _ s

theorem moves_offerCall (r : CallRef) (g : GroupNo) (ps : List MemberPos) (s : State) :
    Moves s (offerCall r g ps s) := by
  unfold offerCall
  dsimp only
  refine Seq.trans ?_ (Seq.foldl (moves_placeOffer r g) ps _)
  repeat' split
  all_goals first
    | refine Seq.trans ?_ (moves_evalFloor _ _)
      exact moves_modCall _ _ s fun _ => rfl
    | exact moves_modCall _ _ s fun _ => rfl

theorem moves_offerLine (l : LineNo) (c : CallRecord) (s : State) : Moves s (offerLine l c s) := by
  unfold offerLine
  repeat' split
  all_goals first
    | exact .refl s
    | exact moves_offerCall _ _ _ s

theorem moves_arbitrate (l : LineNo) (s : State) : Moves s (arbitrate l s) := by
  unfold arbitrate
  repeat' split
  all_goals first
    | exact .refl s
    | exact moves_offerLine _ _ s

theorem moves_arbitrateAll (ls : List LineNo) (s : State) : Moves s (arbitrateAll ls s) :=
  Seq.foldl (fun s l => moves_arbitrate l s) ls s

theorem moves_raiseWithdrawals (why : WithdrawReason) (c : CallRecord) (s : State) :
    Moves s (raiseWithdrawals why c s) := moves_raiseAll _ s

theorem moves_clearReservations (ls : List LineNo) (s : State) : Moves s (clearReservations ls s) :=
  Seq.foldl (fun s l => moves_reserve l none s) ls s

theorem moves_removeCall (r : CallRef) (s : State) : Moves s (removeCall r s) := .one (.removeCall s r)

theorem moves_freeCall (r : CallRef) (s : State) : Moves s (freeCall r s) := by
  unfold freeCall
  split
  · exact .refl s
  · dsimp only
    refine Seq.trans ?_ (moves_arbitrateAll _ _)
    split
    · refine Seq.trans ?_ (moves_evalFloor _ _)
      refine Seq.trans ?_ (moves_removeCall _ _)
      exact moves_clearReservations _ s
    · refine Seq.trans ?_ (moves_removeCall _ _)
      exact moves_clearReservations _ s

theorem moves_queueCall (r : CallRef) (g : GroupNo) (s : State) : Moves s (queueCall r g s) := by
  unfold queueCall
  dsimp only
  refine Seq.trans ?_ (moves_evalFloor _ _)
  refine Seq.trans ?_ (moves_raiseNotice _ _)
  refine Seq.trans ?_ (moves_modHunt _ _ _)
  exact moves_modCall _ _ s fun _ => rfl

theorem moves_deflect (b : Bool) (r : CallRef) (h : HuntPart) (why : DeflectReason) (s : State) :
    Moves s (deflect b r h why s).1 := by
  unfold deflect
  dsimp only
  refine Seq.trans ?_ (moves_freeCall _ _)
  repeat' split
  all_goals first
    | exact .refl s
    | exact moves_raiseWithdrawals _ _ s
    | exact moves_raiseNotice _ s
    | exact (moves_raiseWithdrawals _ _ s).trans (moves_raiseNotice _ _)

theorem moves_carryOut (b : Bool) (r : CallRef) (h : HuntPart) (d : Decision) (s : State) :
    Moves s (carryOut b r h d s).1 := by
  unfold carryOut
  split
  · dsimp only
    refine Seq.trans ?_ (moves_evalFloor _ _)
    refine Seq.trans ?_ (moves_offerCall _ _ _ _)
    exact Seq.ite (fun _ => moves_modHunt r _ s) (fun _ => .refl s)
  · exact moves_queueCall _ _ s
  · exact moves_deflect _ _ _ _ s

theorem moves_leaveGroup (r : CallRef) (t : GroupNo) (s : State) : Moves s (leaveGroup r t s) := by
  unfold leaveGroup
  repeat' split
  all_goals first
    | exact .refl s
    | dsimp only
      refine Seq.trans ?_ (moves_evalFloorOver _ _ _)
      refine Seq.trans ?_ (moves_raiseNotice _ _)
      refine Seq.trans ?_ (moves_modHunt _ _ _)
      refine Seq.trans ?_ (moves_modCall _ _ _ fun _ => rfl)
      refine Seq.trans ?_ (moves_clearReservations _ _)
      exact moves_raiseWithdrawals _ _ s

theorem moves_beginArrival (r : CallRef) (g : GroupNo) (s : State) : Moves s (beginArrival r g s) :=
  moves_modHunt r _ s

theorem moves_overflowN (b : Bool) (n : Nat) : ∀ (w : List LineNo) (r : CallRef) (t : GroupNo) (s : State),
    Moves s (overflowN b n w r t s).1 := by
  induction n with
  | zero =>
    intro w r t s
    unfold overflowN
    split
    · exact moves_deflect _ _ _ _ s
    · exact .refl s
  | succ n ih =>
    intro w r t s
    have h1 : Moves s (beginArrival r t (leaveGroup r t s)) :=
      (moves_leaveGroup r t s).trans (moves_beginArrival r t _)
    unfold overflowN
    dsimp only
    generalize beginArrival r t (leaveGroup r t s) = s1 at h1 ⊢
    refine Seq.trans ?_ (moves_arbitrateAll _ _)
    split
    · exact h1
    · split
      · exact h1.trans (ih _ _ _ _)
      · exact h1.trans (moves_carryOut _ _ _ _ _)

theorem moves_overflowCall (r : CallRef) (h : HuntPart) (t : GroupNo) (s : State) :
    Moves s (overflowCall r h t s) := moves_overflowN _ _ _ r t s

theorem moves_distribute (b : Bool) (w : List LineNo) (r : CallRef) (s : State) : Moves s (distribute b w r s).1 := by
  unfold distribute
  split
  · exact .refl s
  · split
    · exact moves_overflowN _ _ _ _ _ s
    · exact moves_carryOut _ _ _ _ s

theorem moves_rehunt (w : List LineNo) (r : CallRef) (s : State) : Moves s (rehunt w r s) :=
  (moves_modHunt r _ s).trans (moves_distribute false w r _)

theorem moves_rehuntIfBare (w : List LineNo) (r : CallRef) (s : State) : Moves s (rehuntIfBare w r s) := by
  unfold rehuntIfBare
  split
  · exact Seq.ite (fun _ => moves_rehunt w r s) (fun _ => .refl s)
  · exact .refl s

theorem moves_shedSurplus (n : Nat) : ∀ (g : GroupNo) (s : State), Moves s (shedSurplus n g s) := by
  induction n with
  | zero => intro g s; exact .refl s
  | succ n ih =>
    intro g s
    unfold shedSurplus
    repeat' split
    all_goals first
      | exact .refl s
      | exact (moves_overflowCall _ _ _ s).trans (ih _ _)
      | exact (moves_deflect _ _ _ _ s).trans (ih _ _)

theorem owns_headerDecoded (g : GroupNo) (s : State) : Owns s (headerDecoded g s) := by
  unfold headerDecoded
  refine Seq.trans ?_ (moves_configFaults _ _ _ _).owns
  exact owns_modGroup g _ s

theorem owns_headerWritten (g : GroupNo) (s : State) : Owns s (headerWritten g s) :=
  ((owns_headerDecoded g s).trans (moves_shedSurplus _ g _).owns).trans (moves_evalFloor g _).owns

theorem moves_memberFaultsRaised (g : GroupNo) (i : MemberPos) (s : State) : Moves s (memberFaultsRaised g i s) :=
  (moves_configFaults _ _ _ s).trans
    (Seq.foldl (fun s (j : MemberPos) => moves_configFault .member (32 * g.val + j.val) s .duplicate) _ _)

theorem moves_membersChanged (g : GroupNo) (ps : List MemberPos) (s : State) : Moves s (membersChanged g ps s) := by
  have h1 : Moves s { s with deng := { s.deng with calls := s.deng.calls.map (clearTried g) } } :=
    .one (.calls s _ fun c => by unfold clearTried; split <;> rfl)
  have h2 := h1.trans (Seq.foldl (fun s i => moves_modMember g i (fun m => { m with noAnswers := 0 }) s fun _ => rfl) ps _)
  unfold membersChanged
  dsimp only
  split
  · refine h2.trans (Seq.foldl (fun s l => ?_) _ _)
    exact Seq.ite (fun _ => moves_arbitrate l s) (fun _ => .refl s)
  · exact h2

theorem owns_memberWritten (g : GroupNo) (i : MemberPos) (s : State) : Owns s (memberWritten g i s) := by
  have h : Owns s (memberFaultsRaised g i (modMember g i (withMemberWord (copyOf (.member g i) s)) s)) :=
    (owns_modMember g i _ s).trans (moves_memberFaultsRaised g i _).owns
  unfold memberWritten
  dsimp only
  split
  · exact h
  · exact h.trans (moves_membersChanged _ _ _).owns

theorem owns_controlWritten (s : State) : Owns s (controlWritten s) := by
  unfold controlWritten
  refine Seq.trans ?_ (moves_configFaults _ _ _ _).owns
  exact .one (.deng s _ rfl rfl)

theorem moves_confirmLapse (l : LineNo) (c : CallRecord) (h : HuntPart) (s : State) :
    Moves s (confirmLapse l c h s) := by
  unfold confirmLapse
  refine Seq.trans ?_ (moves_rehuntIfBare _ _ _)
  refine Seq.trans ?_ (moves_arbitrate _ _)
  refine Seq.trans ?_ (moves_addTried _ _ _ _)
  refine Seq.trans ?_ (moves_raiseNotice _ _)
  exact moves_dropReservation _ _ s

theorem moves_raiseCount (g : GroupNo) (i : MemberPos) (s : State) : Moves s (raiseCount g i s) := by
  unfold raiseCount
  dsimp only
  split
  · refine Seq.trans ?_ (moves_raiseNotice _ _)
    exact moves_modMember _ _ _ s fun _ => rfl
  · exact moves_modMember _ _ _ s fun _ => rfl

theorem moves_entryUnanswered (r : CallRef) (g : GroupNo) (s : State) (e : RingEntry) :
    Moves s (entryUnanswered r g s e) := by
  unfold entryUnanswered
  repeat' split
  all_goals first
    | exact .refl s
    | exact (moves_addTried _ _ _ s).trans (moves_raiseCount _ _ _)

theorem moves_noAnswerWithdraw (c : CallRecord) (h : HuntPart) (s : State) : Moves s (noAnswerWithdraw c h s) := by
  unfold noAnswerWithdraw
  dsimp only
  refine Seq.trans ?_ (moves_arbitrateAll _ _)
  refine Seq.trans ?_ (moves_rehunt _ _ _)
  refine Seq.trans ?_ (Seq.foldl (fun s l => ?_) _ _)
  · refine Seq.trans ?_ (Seq.foldl (moves_entryUnanswered _ _) _ _)
    refine Seq.trans ?_ (moves_modCall _ _ _ fun _ => rfl)
    exact moves_raiseAll _ s
  · refine Seq.trans ?_ (moves_addTried _ _ _ _)
    refine Seq.trans ?_ (moves_raiseNotice _ _)
    exact moves_dropReservation _ _ s

theorem moves_noAnswerAllRing (c : CallRecord) (h : HuntPart) (s : State) : Moves s (noAnswerAllRing c h s) := by
  unfold noAnswerAllRing
  dsimp only
  split
  · exact moves_overflowCall _ _ _ s
  · exact moves_modHunt _ _ s

/-! ### Lines.lean -/

theorem moves_putParkNone (n : ParkNo) (s : State) : Moves s (putPark n none s) := .one (.parkFree s n)

theorem moves_freePark (n : ParkNo) (s : State) : Moves s (freePark n s) := by
  unfold freePark
  split
  · exact .refl s
  · refine Seq.trans ?_ (moves_putParkNone _ _)
    exact Seq.ite (fun _ => moves_linkedEnd _ s) (fun _ => .refl s)

theorem moves_leaveRinging (r : CallRef) (l : LineNo) (s : State) : Moves s (leaveRinging r l s) :=
  moves_modCall r _ s fun _ => rfl

theorem moves_startRinging (c : CallRecord) (s : State) : Moves s (startRinging c s) := by
  unfold startRinging
  split
  · exact .refl s
  · exact .refl s
  · refine Seq.trans ?_ (moves_modHunt _ _ _)
    exact Seq.ite (fun _ => moves_evalFloor _ s) (fun _ => .refl s)

theorem moves_joinRinging (l : LineNo) (b : Bool) (c : CallRecord) (s : State) : Moves s (joinRinging l b c s) := by
  unfold joinRinging
  refine Seq.trans ?_ (moves_startRinging _ _)
  exact moves_modCall _ _ s fun _ => rfl

theorem moves_ringKnown (l : LineNo) (c : CallRecord) (s : State) : Moves s (ringKnown l c s) := by
  have h (b : Bool) : Moves s (if b then dropReservation c.ref l s else s) :=
    Seq.ite (fun _ => moves_dropReservation _ _ s) (fun _ => .refl s)
  unfold ringKnown
  dsimp only
  split
  · exact h _
  · split
    · exact (h _).trans (moves_raiseNotice _ _)
    · exact (h _).trans (moves_joinRinging _ _ _ _)

theorem moves_lineRings (l : LineNo) (r : CallRef) (s : State) : Moves s (lineRings l r s) := by
  unfold lineRings
  split
  · exact moves_ringKnown _ _ s
  · next hc =>
    split
    · exact .refl s
    · next hp =>
      split
      · next hl => exact .one (.addCall s (directCall r l) hc (by simpa [directCall] using hp) hl)
      · exact moves_raiseNotice _ s

theorem moves_clearCount (g : GroupNo) (l : LineNo) (s : State) : Moves s (clearCount g l s) := by
  unfold clearCount
  split
  · exact moves_modMember _ _ _ s fun _ => rfl
  · exact .refl s

theorem moves_withdrawAll (why : WithdrawReason) (r : CallRef) (s : State) : Moves s (withdrawAll why r s) := by
  unfold withdrawAll
  split
  · exact moves_raiseWithdrawals _ _ s
  · exact .refl s

theorem moves_answer (l : LineNo) (c : CallRecord) (s : State) : Moves s (answer l c s) := by
  have h2 : Moves s (if (s.lmon.shadows.get l).reservation = some c.ref
      then dropReservation c.ref l (leaveRinging c.ref l s) else leaveRinging c.ref l s) :=
    (moves_leaveRinging _ _ s).trans (Seq.ite (fun _ => moves_dropReservation _ _ _) (fun _ => .refl _))
  unfold answer
  dsimp only
  refine Seq.trans ?_ (moves_freeCall _ _)
  refine Seq.trans ?_ (moves_withdrawAll _ _ _)
  split
  · exact (h2.trans (moves_raiseNotice _ _)).trans (moves_clearCount _ _ _)
  · exact h2.trans (moves_raiseNotice _ _)

theorem moves_lineTalks (l : LineNo) (r : CallRef) (s : State) : Moves s (lineTalks l r s) := by
  unfold lineTalks
  split
  · exact moves_answer _ _ s
  · exact .refl s

theorem moves_abandonCall (l : LineNo) (s : State) (r : CallRef) : Moves s (abandonCall l s r) := by
  unfold abandonCall
  repeat' split
  all_goals first
    | exact .refl s
    | refine Seq.trans ?_ (moves_freeCall _ _)
      exact (moves_raiseNotice _ s).trans (moves_raiseWithdrawals _ _ _)

theorem moves_abandonPark (l : LineNo) (s : State) (n : ParkNo) : Moves s (abandonPark l s n) := by
  unfold abandonPark
  split
  · exact Seq.ite (fun _ => (moves_raiseNotice _ s).trans (moves_freePark _ _)) (fun _ => .refl s)
  · exact .refl s

theorem moves_abandonAll (l : LineNo) (s : State) : Moves s (abandonAll l s) :=
  (Seq.foldl (moves_abandonCall l) _ s).trans (Seq.foldl (moves_abandonPark l) _ _)

theorem moves_lapseByLine (l : LineNo) (r : CallRef) (s : State) : Moves s (lapseByLine l r s) := by
  unfold lapseByLine
  split
  · refine Seq.trans ?_ (moves_rehuntIfBare _ _ _)
    refine Seq.trans ?_ (moves_addTried _ _ _ _)
    exact (moves_dropReservation _ _ s).trans (moves_raiseNotice _ _)
  · exact moves_dropReservation _ _ s

theorem moves_reservationStep (l : LineNo) (x : LineState) (s : State) : Moves s (reservationStep l x s) := by
  unfold reservationStep
  split
  · exact Seq.ite (fun _ => .refl s) (fun _ => moves_lapseByLine _ _ s)
  · exact .refl s

theorem moves_afterWithdrawal (l : LineNo) (b : Bool) (c : CallRecord) (s : State) :
    Moves s (afterWithdrawal l b c s) := by
  unfold afterWithdrawal
  split
  · exact .refl s
  · split
    · exact moves_freeCall _ s
    · split
      · refine Seq.trans ?_ (moves_modHunt _ _ _)
        exact moves_modCall _ _ s fun _ => rfl
      · refine Seq.trans ?_ (moves_rehunt _ _ _)
        exact Seq.ite (fun _ => moves_addTried _ _ _ s) (fun _ => .refl s)

theorem moves_withdrawalStep (l : LineNo) (x : LineState) (s : State) : Moves s (withdrawalStep l x s) := by
  unfold withdrawalStep
  split
  · exact .refl s
  · split
    · exact .refl s
    · dsimp only
      split
      · exact (moves_leaveRinging _ _ s).trans (moves_afterWithdrawal _ _ _ _)
      · exact moves_leaveRinging _ _ s

theorem moves_newStateStep (l : LineNo) (x : LineState) (s : State) : Moves s (newStateStep l x s) := by
  unfold newStateStep
  split
  · exact moves_lineRings _ _ s
  · exact moves_lineTalks _ _ s
  · exact .refl s

theorem moves_dengReport (l : LineNo) (x : LineState) (s : State) : Moves s (dengReport l x s) := by
  have h1 := moves_reservationStep l x s
  have h2 : Moves s (if x = .idle then abandonAll l (reservationStep l x s) else reservationStep l x s) :=
    h1.trans (Seq.ite (fun _ => moves_abandonAll _ _) (fun _ => .refl _))
  have h3 := (h2.trans (moves_withdrawalStep l x _)).trans (moves_newStateStep l x _)
  exact h3.trans (Seq.ite (fun _ => moves_arbitrate l _) (fun _ => .refl _))

theorem moves_noteLineFaults (l : LineNo) (region : FaultRegion) (fs : List FaultField) (s : State) :
    Moves s (noteLineFaults l region fs s) := .one (.lmon s _ rfl rfl)

theorem moves_lineFaults (l : LineNo) (region : FaultRegion) (fs : List FaultField) (s : State) :
    Moves s (lineFaults l region fs s) := by
  unfold lineFaults
  split
  · exact moves_noteLineFaults _ _ _ s
  · exact moves_configFaults _ _ _ s

/-- A CONFIG_FAULT leaves the line monitor alone. -/
theorem configFault_lmon (region : FaultRegion) (i : Nat) (s : State) (f : FaultField) :
    (configFault region i s f).lmon = s.lmon := by
  unfold configFault stepFault noteFault addNote raiseNotice
  repeat' split
  all_goals rfl

/-- CONFIG_FAULTs leave the line monitor alone. -/
theorem configFaults_lmon (region : FaultRegion) (i : Nat) (fs : List FaultField) (s : State) :
    (configFaults region i fs s).lmon = s.lmon := by
  unfold configFaults
  induction fs generalizing s with
  | nil => rfl
  | cons f fs ih => exact (ih _).trans (configFault_lmon region i s f)

/-- The faults of a line word leave the line shadows alone. -/
theorem lineFaults_shadows (l : LineNo) (region : FaultRegion) (fs : List FaultField) (s : State) :
    (lineFaults l region fs s).lmon.shadows = s.lmon.shadows := by
  unfold lineFaults
  split
  · rfl
  · rw [configFaults_lmon]

theorem owns_lineStateWritten (l : LineNo) (s : State) : Owns s (lineStateWritten l s) := by
  have h1 := (moves_lineFaults l .lineState (decodeLineState (copyOf (.lineState l) s)).2 s).owns
  have e := lineFaults_shadows l .lineState (decodeLineState (copyOf (.lineState l) s)).2 s
  unfold lineStateWritten
  dsimp only
  split
  · exact h1
  · next hne =>
    have h2 := h1.then (.line _ l (decodeLineState (copyOf (.lineState l) s)).1 (by rw [e]; exact hne))
    exact h2.trans (Seq.ite (fun _ => (moves_dengReport _ _ _).owns) (fun _ => .refl _))

theorem owns_lineConfigWritten (l : LineNo) (s : State) : Owns s (lineConfigWritten l s) := by
  unfold lineConfigWritten
  refine Seq.then ?_ (.lineConfig _ l _)
  exact (moves_lineFaults _ _ _ s).owns

theorem moves_raiseLineNotes (l : LineNo) (s : State) : Moves s (raiseLineNotes l s) := by
  unfold raiseLineNotes
  refine Seq.trans ?_ (moves_raiseAll _ _)
  exact .one (.lmon s _ rfl rfl)

theorem moves_presentLine (l : LineNo) (s : State) : Moves s (presentLine l s) := by
  have h := moves_raiseLineNotes l s
  unfold presentLine
  dsimp only
  split
  · exact h.trans (moves_dengReport _ _ _)
  · exact h.trans (moves_dengReport _ _ _)
  · exact h

/-! ### Requests.lean -/

theorem acts_finishSlot (n : SlotNo) (r : Reply) (s : State) : Acts s (finishSlot n r s) := acts_modSlot n _ s

/-- Serving a slot is acts when the command's own handling is moves. -/
theorem acts_serve (n : SlotNo) (f : Params → State → State × Reply) (h : ∀ p s, Moves s (f p s).1) (s : State) :
    Acts s (serve n f s) := by
  unfold serve
  dsimp only
  refine Seq.trans ?_ (acts_finishSlot _ _ _)
  exact (Seq.one (.rqu s _)).trans (h _ _).acts

theorem acts_command (code : Nat) (f : Params → State → State × Reply) (h : ∀ p s, Moves s (f p s).1) (s : State) :
    Acts s (command code f s) := by
  unfold command
  split
  · exact acts_serve _ f h s
  · exact .refl s

theorem acts_refuseCmd (n : SlotNo) (r : CmdRefusal) (s : State) : Acts s (refuseCmd n r s) := by
  unfold refuseCmd
  split
  · exact acts_modSlot _ _ s
  · exact (moves_raiseNotice _ s).acts

theorem acts_acceptCmd (n : SlotNo) (s : State) : Acts s (acceptCmd n s) := acts_modSlot n _ s

theorem acts_cmdWritten (n : SlotNo) (be : ByteEnables) (s : State) : Acts s (cmdWritten n be s) := by
  unfold cmdWritten
  dsimp only
  repeat' split
  all_goals first
    | exact acts_refuseCmd _ _ s
    | exact acts_acceptCmd _ s

theorem moves_placeHunt (r : CallRef) (g : GroupNo) (p : Fin 4) (caller : Option LineNo) (s : State)
    (hc : findCall r s = none) (hp : parkedAs r s = none) (hl : s.deng.calls.length < Config.callRecords) :
    Moves s (placeHunt r g p caller s).1 := by
  unfold placeHunt
  dsimp only
  refine Seq.trans ?_ (moves_distribute _ _ _ _)
  refine Seq.trans ?_ (moves_beginArrival _ _ _)
  exact .one (.addCall s _ hc hp hl)

/-- A reference held by nothing. -/
theorem refHeld_false {r : CallRef} {s : State} (h : ¬ refHeld r s = true) :
    findCall r s = none ∧ parkedAs r s = none := by
  simpa [refHeld] using h

theorem moves_hunt (p : Params) (s : State) : Moves s (hunt p s).1 := by
  unfold hunt
  dsimp only
  split
  · exact .refl s
  · split
    · exact .refl s
    · split
      · exact .refl s
      · next h =>
        split
        · exact .refl s
        · next hl => exact moves_placeHunt _ _ _ _ s (refHeld_false h).1 (refHeld_false h).2 (by omega)

theorem moves_cancel (p : Params) (s : State) : Moves s (cancel p s).1 := by
  unfold cancel
  dsimp only
  repeat' split
  all_goals first
    | exact .refl s
    | exact (moves_raiseWithdrawals _ _ s).trans (moves_freeCall _ _)
    | exact moves_freePark _ s

theorem moves_signIn (p : Params) (s : State) : Moves s (signIn p s).1 := by
  unfold signIn
  split
  · exact .refl s
  · dsimp only
    split
    · refine Seq.trans ?_ (moves_arbitrate _ _)
      exact moves_modMember _ _ _ s fun _ => rfl
    · exact moves_modMember _ _ _ s fun _ => rfl

theorem moves_signOut (p : Params) (s : State) : Moves s (signOut p s).1 := by
  unfold signOut
  split
  · exact .refl s
  · exact moves_modMember _ _ _ s fun _ => rfl

theorem moves_setNight (p : Params) (s : State) : Moves s (setNight p s).1 := by
  unfold setNight
  split
  · exact .refl s
  · dsimp only
    split
    · exact .refl s
    · exact (moves_setService _ _ s).trans (moves_evalFloor _ _)

theorem moves_goDay (g : GroupNo) (s : State) : Moves s (goDay g s) := by
  unfold goDay
  dsimp only
  refine Seq.trans ?_ (Seq.foldl (fun s (i : MemberPos) => moves_arbitrate _ s) _ _)
  exact (moves_setService g false s).trans (moves_evalFloor g _)

theorem moves_setDay (p : Params) (s : State) : Moves s (setDay p s).1 := by
  unfold setDay
  split
  · exact .refl s
  · dsimp only
    split
    · exact moves_goDay _ s
    · exact .refl s

theorem moves_claim (c : CallRecord) (s : State) : Moves s (claim c s) :=
  (moves_raiseWithdrawals _ _ s).trans (moves_freeCall _ _)

theorem moves_groupPickup (p : Params) (s : State) : Moves s (groupPickup p s).1 := by
  unfold groupPickup
  repeat' split
  all_goals first
    | exact .refl s
    | exact moves_claim _ s

theorem moves_directedPickup (p : Params) (s : State) : Moves s (directedPickup p s).1 := by
  unfold directedPickup
  repeat' split
  all_goals first
    | exact .refl s
    | exact moves_claim _ s

theorem owns_permissionWritten (p : PickupNo) (s : State) : Owns s (permissionWritten p s) :=
  .one (.deng s _ rfl rfl)

theorem moves_linkPark (n : ParkNo) (p : PageNo) (s : State) : Moves s (linkPark n p s) := by
  unfold linkPark
  cases h : s.deng.parks.get n with
  | none => exact moves_putParkNone n s
  | some k => exact .one (.parkEdit s n k _ h rfl)

theorem moves_makePark (n : ParkNo) (r : CallRef) (parker held : Option LineNo) (p : Params) (s : State)
    (hn : s.deng.parks.get n = none) (hc : findCall r s = none) (hp : parkedAs r s = none) :
    Moves s (makePark n r parker held p s).1 := by
  have h1 : Moves s (putPark n (some ⟨r, parker, held, after (1000 * s.deng.parkTime) s, none⟩) s) :=
    .one (.parkFill s n _ hn hc hp)
  unfold makePark
  dsimp only
  repeat' split
  all_goals first
    | exact h1
    | exact (h1.trans (moves_linkPark _ _ _)).trans (moves_makeAccepted _ _ _)

/-- PARK fills an empty slot. -/
theorem parkSlot_empty {w : Nat} {s : State} {n : ParkNo} (h : parkSlot w s = some n) : s.deng.parks.get n = none := by
  unfold parkSlot at h
  split at h
  · simpa using List.find?_some h
  · split at h
    · next e => cases h; exact e
    · cases h

theorem moves_park (p : Params) (s : State) : Moves s (park p s).1 := by
  unfold park
  dsimp only
  split
  · split
    · exact .refl s
    · split
      · exact .refl s
      · next h =>
        split
        · next hn => exact moves_makePark _ _ _ _ _ s (parkSlot_empty hn) (refHeld_false h).1 (refHeld_false h).2
        · exact .refl s
  · exact .refl s

theorem moves_retrieve (p : Params) (s : State) : Moves s (retrieve p s).1 := by
  unfold retrieve
  repeat' split
  all_goals first
    | exact .refl s
    | dsimp only
      repeat' split
      all_goals first
        | exact .refl s
        | exact moves_freePark _ s

theorem moves_pageStart (p : Params) (s : State) : Moves s (pageStart p s).1 := by
  unfold pageStart
  split
  · exact .refl s
  · exact moves_makeAccepted _ _ s

theorem moves_pageEnd (p : Params) (s : State) : Moves s (pageEnd p s).1 := by
  unfold pageEnd
  dsimp only
  repeat' split
  all_goals first
    | exact .refl s
    | exact moves_endPage _ _ s

end Sys2Proof.Machine
end

