-- ==== Sys2Proof/Laws/BusMoves.lean ====
section
/-! SUPPORT. The operations of the notice unit, the pass-through unit and the array port are sequences of moves, of owners' changes, of
writes or of jumps: one lemma for each operation. -/

namespace Sys2Proof.Machine

/-! ### The notice unit -/

/-- A change of the notice unit alone, after a change of the notice unit alone. -/
theorem ntu_only_trans {s t u : State} (h : t = { s with ntu := t.ntu }) (k : u = { t with ntu := u.ntu }) :
    u = { s with ntu := u.ntu } := by
  rw [k, h]

theorem owns_setConsumer (c : BitVec 8) (s : State) (h : s.ptu.mode ≠ .ready) : Owns s (setConsumer c s) :=
  .one (.ntu s _ ⟨id, id, id⟩ rfl fun e => absurd e h)

/-- A CONFIG_FAULT only changes the notice unit, within its limits. -/
theorem configFault_fits (region : FaultRegion) (i : Nat) (s : State) (f : FaultField) :
    configFault region i s f = { s with ntu := (configFault region i s f).ntu }
      ∧ NtuFits s.ntu (configFault region i s f).ntu := by
  unfold configFault stepFault
  split
  · unfold noteFault addNote
    split
    · exact ⟨rfl, .refl _⟩
    · exact ⟨rfl, id, id, id⟩
  · exact ⟨(raiseNotice_fits _ s).1, (raiseNotice_fits _ s).2.1⟩

theorem owns_consumerWritten (s : State) : Owns s (consumerWritten s) := by
  have h (c : BitVec 8) : NtuFits s.ntu (setConsumer c s).ntu := ⟨id, id, id⟩
  unfold consumerWritten
  dsimp only
  split
  · next hm => exact owns_setConsumer _ s hm
  · split
    · have e := endSaturation_fits (setConsumer (consumerCopy s) s)
      exact owns_evalInterrupt_of s _ (ntu_only_trans rfl e.1) ((h _).trans e.2.1)
    · have e := endSaturation_fits (setConsumer s.ntu.producer s)
      have f := configFault_fits .control 0 (endSaturation (setConsumer s.ntu.producer s)) .consumer
      exact owns_evalInterrupt_of s _ (ntu_only_trans (ntu_only_trans rfl e.1) f.1) (((h _).trans e.2.1).trans f.2)

theorem interruptWordTaken_fits (s : State) : NtuFits s.ntu (interruptWordTaken s).ntu :=
  ⟨id, id, fun _ => Nat.le_max_left _ _⟩

theorem owns_interruptWordWritten (s : State) : Owns s (evalInterrupt (interruptWordTaken s)) :=
  owns_evalInterrupt_of s _ rfl (interruptWordTaken_fits s)

theorem owns_interruptWordTaken (s : State) : Owns s (interruptWordTaken s) :=
  .one (.ntu s _ (interruptWordTaken_fits s) rfl fun _ => ⟨rfl, rfl⟩)

theorem writes_writeRecord (k : Nat) (q : Queued) (s : State) : Writes s (writeRecord k q s) := by
  suffices h : ∀ (xs : List (Word × Nat)) (t : State),
      Writes t (xs.foldl (fun t x => arrayWrite (recordAddress x.2 s) x.1 fullWord t) t) from h _ s
  intro xs
  induction xs with
  | nil => intro t; exact .refl t
  | cons x xs ih =>
    intro t
    exact (writes_arrayWrite (recordAddress x.2 s) x.1 fullWord t).trans (ih _)

theorem acts_freePort (s : State) : Acts s (freePort s) := .one (.ptu s _ ⟨rfl, rfl, rfl, rfl, rfl⟩)

/-- Writing a record leaves the notice unit alone. -/
theorem writeRecord_ntu (k : Nat) (q : Queued) (s : State) : (writeRecord k q s).ntu = s.ntu := by
  unfold writeRecord
  generalize ((recordWords q).zipIdx).take k = xs
  suffices h : ∀ t : State, (xs.foldl (fun t x => arrayWrite (recordAddress x.2 s) x.1 fullWord t) t).ntu = t.ntu from h s
  induction xs with
  | nil => intro t; rfl
  | cons x xs ih => intro t; exact ih _

theorem moves_notePosted (q : Queued) (rest : List Queued) (s : State) (h : s.ntu.queue = q :: rest) :
    Moves s (evalInterrupt (endSaturation (posted rest s))) := by
  have e := endSaturation_fits (posted rest s)
  have h1 : NtuFits s.ntu (posted rest s).ntu := by
    refine ⟨fun hl => ?_, id, id⟩
    rw [h, List.length_cons] at hl
    exact Nat.le_of_succ_le hl
  exact moves_evalInterrupt_of s _ (ntu_only_trans rfl e.1) (h1.trans e.2.1) e.2.2

theorem writes_postingComplete (q : Queued) (rest : List Queued) (s : State) (h : s.ntu.queue = q :: rest) :
    Writes s (postingComplete q rest s) :=
  (writes_writeRecord _ _ s).trans (moves_notePosted q rest _ (by rw [writeRecord_ntu]; exact h)).writes

theorem writes_cutPosting (s : State) : Writes s (cutPosting s) := by
  unfold cutPosting
  split
  · next q rest _ _ =>
    have h := writes_writeRecord (1 + Config.freeCut s.ptu.freeCount % 4) q s
    dsimp only
    refine h.trans (Acts.writes ?_)
    exact .one (.ptu _ _ ⟨rfl, rfl, rfl, rfl, rfl⟩)
  · exact .refl s

/-! ### The arbiter -/

theorem acts_fetchBurst (p : PageNo) (s : State) : Acts s (fetchBurst p s) := .one (.ptu s _ ⟨rfl, rfl, rfl, rfl, rfl⟩)

theorem acts_serviceBurst (s : State) : Acts s (serviceBurst s) := by
  unfold serviceBurst
  split
  · exact acts_fetchBurst _ s
  · split
    · exact .one (.ptu s _ ⟨rfl, rfl, rfl, rfl, rfl⟩)
    · split
      · exact acts_fetchBurst _ s
      · exact .refl s

theorem acts_masterBurst (s : State) : Acts s (masterBurst s) := by
  unfold masterBurst
  split
  · exact .refl s
  · split
    · exact .one (.ptu s _ ⟨rfl, rfl, rfl, rfl, rfl⟩)
    · exact .refl s
  · exact acts_serviceBurst s

/-! ### The scan -/

theorem writes_scanWord (s : State) (w : Watched) : Writes s (scanWord s w) := .one (.merge s w _ fullWord)

theorem owns_repeatScanned (s : State) (t : PatternNo) : Owns s (repeatScanned s t) := .one (.ctp s _)

theorem owns_memberScanned (g : GroupNo) (s : State) (i : MemberPos) : Owns s (memberScanned g s i) := by
  unfold memberScanned
  refine Seq.trans ?_ (owns_modMember _ _ _ _)
  exact owns_memberWritten g i s

theorem owns_headerScanned (g : GroupNo) (s : State) : Owns s (headerScanned g s) := by
  unfold headerScanned
  refine Seq.trans ?_ (owns_modGroup _ _ _)
  exact owns_headerDecoded g s

theorem owns_lineScanned (s : State) (l : LineNo) : Owns s (lineScanned s l) :=
  (owns_lineStateWritten l s).trans (owns_lineConfigWritten l _)

theorem acts_slotScanned (n : SlotNo) (s : State) : Acts s (slotScanned n s) :=
  Seq.ite (fun _ => .refl s) (fun _ => acts_modSlot n (fun _ => SlotRec.initial) s)

theorem owns_controlBurst (s : State) (h : s.ptu.mode ≠ .ready) :
    Owns s (controlWritten (linkEnablesWritten (interruptWordTaken (setConsumer (consumerCopy s) s)))) := by
  refine Seq.trans ?_ (owns_controlWritten _)
  refine Seq.trans ?_ (owns_linkEnablesWritten _)
  refine Seq.trans ?_ (owns_interruptWordTaken _)
  exact owns_setConsumer _ s h

theorem writes_scanDeliver (b : ScanBurst) (s : State) (h : s.ptu.mode ≠ .ready) : Writes s (scanDeliver b s) := by
  cases b with
  | slot n => exact (acts_slotScanned n s).writes
  | control => exact (owns_controlBurst s h).writes
  | zone z => exact (owns_zoneRecordScanned z s).writes
  | targets j =>
    exact Owns.writes (Seq.foldl (fun s (i : Fin 8) => owns_targetWritten (Fin.ofNat 32 (8 * j.val + i.val)) s) _ s)
  | tones t => exact (owns_patternWritten t s).writes
  | toneRepeats j => exact Owns.writes (Seq.foldl owns_repeatScanned _ s)
  | clips j =>
    exact Owns.writes (Seq.foldl (fun s (i : Fin 4) => owns_directoryWritten (Fin.ofNat 64 (4 * j.val + i.val)) s) _ s)
  | header g => exact (owns_headerScanned g s).writes
  | members g j =>
    exact Owns.writes (Seq.foldl (fun s (i : Fin 8) => owns_memberScanned g s (Fin.ofNat 32 (8 * j.val + i.val))) _ s)
  | permissions j =>
    exact Owns.writes (Seq.foldl (fun s (i : Fin 4) => owns_permissionWritten (Fin.ofNat 64 (4 * j.val + i.val)) s) _ s)
  | lines j =>
    exact Owns.writes (Seq.foldl (fun s (i : Fin 4) => owns_lineScanned s (Fin.ofNat 1024 (4 * j.val + i.val))) _ s)

/-- Entering READY (R184, steps 1 to 3). -/
theorem jumps_enterReady (s : State) (h : s.ptu.mode = .scanning) : Jumps s (enterReady s) := by
  unfold enterReady
  refine Seq.trans ?_ (moves_raiseNotice _ _).jumps
  exact .one (.ready s h)

theorem acts_restartDone (s : State) : Acts s (restartDone s) := by
  unfold restartDone
  split
  · refine Seq.trans ?_ (acts_finishSlot _ _ _)
    exact .one (.ptu s _ ⟨rfl, rfl, rfl, rfl, rfl⟩)
  · exact .refl s

theorem acts_raiseRefusal (s : State) (n : SlotNo) : Acts s (raiseRefusal s n) := by
  unfold raiseRefusal
  split
  · exact (acts_modSlot _ _ s).trans (moves_raiseNotice _ _).acts
  · exact .refl s

theorem moves_raiseNotedFaults (s : State) : Moves s (raiseNotedFaults s) := by
  unfold raiseNotedFaults
  refine Seq.trans ?_ (moves_raiseAll _ _)
  exact .one (.note s _)

/-- The scan's end (R184). -/
theorem jumps_endScan (s : State) (h : s.ptu.mode = .scanning) : Jumps s (endScan s) := by
  have h1 : Acts (enterReady s)
      (raiseNotedFaults ((List.finRange 16).foldl raiseRefusal (restartDone (enterReady s)))) :=
    ((acts_restartDone _).trans (Seq.foldl acts_raiseRefusal _ _)).trans (moves_raiseNotedFaults _).acts
  unfold endScan
  dsimp only
  generalize raiseNotedFaults ((List.finRange 16).foldl raiseRefusal (restartDone (enterReady s))) = t at h1 ⊢
  refine (jumps_enterReady s h).trans (h1.writes.jumps.trans (Moves.jumps ?_))
  refine Seq.trans ?_ (moves_evalInterrupt _)
  exact .one (.lmon t _ rfl rfl)

/-! ### Processor writes -/

theorem writes_ownerActs (w : Watched) (be : ByteEnables) (s : State) : Writes s (ownerActs w be s) := by
  cases w with
  | consumer => exact (owns_consumerWritten s).writes
  | interruptWord => exact (owns_interruptWordWritten s).writes
  | linkEnables => exact (owns_linkEnablesWritten s).writes
  | control => exact (owns_controlWritten s).writes
  | param n i => exact .refl s
  | cmd n => exact (acts_cmdWritten n be s).writes
  | header g i => exact (owns_headerWritten g s).writes
  | member g i => exact (owns_memberWritten g i s).writes
  | permission p i => exact (owns_permissionWritten p s).writes
  | zone z i => exact (owns_zoneRecordWritten z i s).writes
  | target t => exact (owns_targetWritten t s).writes
  | toneStep t i => exact (owns_patternWritten t s).writes
  | toneRepeat t => exact (owns_patternWritten t s).writes
  | clip c i => exact (owns_directoryWritten c s).writes
  | lineState l => exact (owns_lineStateWritten l s).writes
  | lineConfig l => exact (owns_lineConfigWritten l s).writes
  | live k i => exact .refl s

theorem writes_wordWrite (w : Watched) (d : Word) (be : ByteEnables) (s : State) : Writes s (wordWrite w d be s) := by
  unfold wordWrite
  split
  · exact writes_liveWrite _ _ _ _ s
  · exact writes_watchedWrite _ _ _ _ s (writes_ownerActs _ _)

theorem writes_processorWrite (a : Address) (d : Word) (be : ByteEnables) (s : State) :
    Writes s (processorWrite a d be s) := by
  unfold processorWrite
  split
  · exact writes_plainArrayWrite _ _ _ s
  · exact writes_wordWrite _ _ _ s
  · exact writes_plainArrayWrite _ _ _ s

theorem writes_carry (a : Access) (s : State) : Writes s (carry a s) := by
  cases a with
  | plain a d be => exact writes_processorWrite a d be s
  | watched w d be => exact writes_wordWrite w d be s
  | read => exact (acts_accessStart s).writes

/-! ### The array port -/

theorem acts_setWaiting (as : List Access) (s : State) : Acts s { s with ptu := { s.ptu with waiting := as } } :=
  .one (.ptu s _ ⟨rfl, rfl, rfl, rfl, rfl⟩)

theorem acts_holdBurst (s : State) : Acts s (holdBurst s) := by
  unfold holdBurst
  refine (acts_masterBurst s).trans ?_
  exact .one (.ptu _ _ ⟨rfl, rfl, rfl, rfl, rfl⟩)

theorem acts_holdIfDue (s : State) : Acts s (if holdDue s then holdBurst s else s) :=
  Seq.ite (fun _ => acts_holdBurst s) (fun _ => .refl s)

theorem writes_runAccesses (as : List Access) : ∀ s : State, Writes s (runAccesses as s) := by
  induction as with
  | nil => exact fun s => (acts_setWaiting [] s).writes
  | cons a as ih =>
    intro s
    have h := acts_holdIfDue s
    unfold runAccesses
    dsimp only
    generalize (if holdDue s then holdBurst s else s) = s1 at h ⊢
    split
    · exact h.writes.trans ((writes_carry a s1).trans (ih _))
    · exact h.writes.trans (acts_setWaiting _ s1).writes

/-- Reads store nothing. -/
theorem acts_runAccesses (as : List Access) (hr : ∀ a ∈ as, a = .read) : ∀ s : State, Acts s (runAccesses as s) := by
  induction as with
  | nil => exact fun s => acts_setWaiting [] s
  | cons a as ih =>
    intro s
    have h := acts_holdIfDue s
    have e : a = .read := hr a (by simp)
    unfold runAccesses
    dsimp only
    generalize (if holdDue s then holdBurst s else s) = s1 at h ⊢
    split
    · rw [e]
      exact h.trans ((acts_accessStart s1).trans (ih (fun b hb => hr b (by simp [hb])) _))
    · exact h.trans (acts_setWaiting _ s1)

theorem writes_access (a : Access) (s : State) : Writes s (access a s) := writes_runAccesses _ s

theorem writes_portFreed (s : State) : Writes s (portFreed s) := writes_runAccesses _ s

/-- A freed port with no access waiting stays free. -/
theorem acts_portFreed (s : State) (h : s.ptu.waiting = []) : Acts s (portFreed s) := by
  unfold portFreed
  rw [h]
  exact acts_setWaiting [] s

/-- An access that finds the port free, no other waiting and no hold is carried at once (R178). -/
theorem access_free (a : Access) (s : State) (hb : s.ptu.burst = none) (hw : s.ptu.waiting = []) (hh : holdDue s = false) :
    access a s = { carry a s with ptu := { (carry a s).ptu with waiting := [] } } := by
  unfold access
  rw [hw]
  simp [runAccesses, hh, hb]

end Sys2Proof.Machine
end

