-- ==== Sys2Proof/Laws/ExecMoves.lean ====
section
/-! SUPPORT. Every command answers a next state: by acts, by writes, or, for the release of the reset pin, its fall, RESTART
and the end of the scan, by jumps. -/

namespace Sys2Proof.Machine

/-- A command that answers a next state by changes of one kind. -/
def RunsBy (R : State → State → Prop) (o : Host.Outcome State Fault Refusal) (s : State) : Prop :=
  ∃ t, o = .next t ∧ Seq R s t

theorem runs_of {R : State → State → Prop} {s t : State} (h : Seq R s t) : RunsBy R (.next t) s := ⟨t, rfl, h⟩

theorem runs_ite {R : State → State → Prop} {c : Prop} [Decidable c] {o p : Host.Outcome State Fault Refusal} {s : State}
    (h : RunsBy R o s) (k : RunsBy R p s) : RunsBy R (if c then o else p) s := by
  split
  · exact h
  · exact k

/-- A command that answers a next state by moves. -/
theorem runs_moves {s t : State} (h : Moves s t) : RunsBy Act (.next t) s := runs_of (Moves.acts h)

theorem runs_command (code : Nat) (f : Params → State → State × Reply) (h : ∀ p s, Moves s (f p s).1) (s : State) :
    RunsBy Act (.next (command code f s)) s := runs_of (acts_command code f h s)

/-- A burst that starts in a gap. -/
theorem runs_gapBurst (s : State) : RunsBy Act (execMasterBurstStart false s) s := by
  unfold execMasterBurstStart
  rw [if_neg (by decide)]
  exact runs_ite (runs_of (acts_masterBurst s)) (runs_of (.refl s))

/-- A processor read, with no access waiting before it. -/
theorem runs_read (s : State) (h : s.ptu.waiting = []) : RunsBy Act (execMasterBurstStart true s) s := by
  unfold execMasterBurstStart
  rw [if_pos rfl]
  refine runs_of (acts_runAccesses _ ?_ s)
  simp [h]

theorem runs_linePresentation (s : State) : RunsBy Act (execLinePresentation s) s := by
  unfold execLinePresentation
  split
  · refine runs_moves (Seq.trans ?_ (moves_presentLine _ _))
    exact .one (.lmon s _ rfl rfl)
  · exact runs_of (.refl s)

theorem runs_unknownCommand (s : State) : RunsBy Act (execUnknownCommand s) s := by
  unfold execUnknownCommand
  split
  · exact runs_of (acts_serve _ _ (fun _ s => .refl s) s)
  · exact runs_of (.refl s)

theorem runs_confirmTimerExpiry (l : LineNo) (s : State) : RunsBy Act (execConfirmTimerExpiry l s) s := by
  unfold execConfirmTimerExpiry
  split
  · exact runs_moves (moves_confirmLapse _ _ _ s)
  · exact runs_of (.refl s)

theorem runs_noAnswerTimerExpiry (r : CallRef) (s : State) : RunsBy Act (execNoAnswerTimerExpiry r s) s := by
  unfold execNoAnswerTimerExpiry
  split
  · exact runs_ite (runs_moves (moves_noAnswerAllRing _ _ s)) (runs_moves (moves_noAnswerWithdraw _ _ s))
  · exact runs_of (.refl s)

theorem runs_overflowWaitExpiry (r : CallRef) (s : State) : RunsBy Act (execOverflowWaitExpiry r s) s := by
  unfold execOverflowWaitExpiry
  repeat' split
  all_goals first
    | exact runs_moves (moves_overflowCall _ _ _ s)
    | exact runs_moves (moves_modHunt _ _ s)
    | exact runs_of (.refl s)

theorem runs_floorDelayExpiry (r : CallRef) (s : State) : RunsBy Act (execFloorDelayExpiry r s) s := by
  unfold execFloorDelayExpiry
  split
  · exact runs_moves ((moves_modHunt _ _ s).trans (moves_evalFloor _ _))
  · exact runs_of (.refl s)

theorem runs_parkTimerExpiry (n : ParkNo) (s : State) : RunsBy Act (execParkTimerExpiry n s) s := by
  unfold execParkTimerExpiry
  split
  · exact runs_ite (runs_moves ((moves_raiseNotice _ s).trans (moves_freePark _ _))) (runs_of (.refl s))
  · exact runs_of (.refl s)

theorem runs_sampleProduce (p : PageNo) (s : State) : RunsBy Act (execSampleProduce p s) s := by
  unfold execSampleProduce
  split
  · exact runs_moves ((moves_produce p s).trans (moves_settle _ _))
  · exact runs_of (.refl s)

theorem moves_fetchBurstEnded (p : PageNo) (s : State) : Moves s (fetchBurstEnded p s) := by
  unfold fetchBurstEnded
  split
  · exact .refl s
  · exact Seq.ite (fun _ => moves_putFetch _ _ s) (fun _ => moves_landBlock _ _ _ s)

theorem acts_fetchBurstEnded (p : PageNo) (s : State) : Acts s (fetchBurstEnded p (freePort s)) :=
  (acts_freePort s).trans (moves_fetchBurstEnded p _).acts

/-- The end of a fetch's burst, with no access waiting for the port. -/
theorem runs_blockFetchLands (s : State) (h : s.ptu.waiting = []) : RunsBy Act (execBlockFetchLands s) s := by
  unfold execBlockFetchLands
  split
  · next p _ =>
    refine runs_of ((acts_fetchBurstEnded p s).trans (acts_portFreed _ ?_))
    rw [(moves_fetchBurstEnded p (freePort s)).fixed.2.1]
    exact h
  · exact runs_of (.refl s)

theorem runs_frameStart (s : State) : RunsBy Act (execFrameStart s) s := by
  unfold execFrameStart
  refine runs_moves (Seq.trans ?_ (moves_allowFrame _))
  refine Seq.trans ?_ (moves_formSlots _)
  exact (moves_takeEnables s).trans (Seq.foldl moves_checkUnderrun _ _)

theorem runs_micSample (order : List ZoneNo) (bits : Vector (BitVec 128) 24) (s : State) : RunsBy Act (execMicSample order bits s) s := by
  unfold execMicSample
  split
  · exact runs_of (.refl s)
  · refine runs_moves ((moves_completeBlocks order s).trans
      (moves_chains (fun z => addSample (bits.get z)) _ (fun _ _ => rfl) fun _ _ a b e => ?_))
    show a.blockCount + 1 = b.blockCount + 1
    rw [e]

theorem runs_resumeTimerExpiry (z : ZoneNo) (s : State) : RunsBy Act (execResumeTimerExpiry z s) s := by
  unfold execResumeTimerExpiry
  split
  · exact runs_ite (runs_moves (moves_modAmon _ _ s (fun _ => rfl) fun _ => rfl)) (runs_of (.refl s))
  · exact runs_of (.refl s)

theorem runs_rampTimerExpiry (z : ZoneNo) (s : State) : RunsBy Act (execRampTimerExpiry z s) s := by
  unfold execRampTimerExpiry
  split
  · next h =>
    refine runs_moves (Seq.trans (.one (.ramp s z _ ?_)) (moves_settle _ _))
    intro e
    rw [e] at h
    cases h
  · exact runs_of (.refl s)

/-- Every command that neither uses the port nor sets the operating state answers a next state, by acts. -/
theorem exec_acts (c : Instr) (s : State) (hc : stores c = false) : RunsBy Act (exec c s) s := by
  cases c with
  | plantTimeTick =>
    show RunsBy Act (execPlantTimeTick s) s
    unfold execPlantTimeTick
    split
    · exact runs_of (.refl s)
    · exact runs_of (.one (.ptu s _ ⟨rfl, rfl, rfl, rfl, rfl⟩))
  | masterBurstStart read =>
    cases read with
    | false => exact runs_gapBurst s
    | true => cases hc
  | linePresentation => exact runs_linePresentation s
  | hunt => exact runs_command _ _ moves_hunt s
  | cancel => exact runs_command _ _ moves_cancel s
  | signIn => exact runs_command _ _ moves_signIn s
  | signOut => exact runs_command _ _ moves_signOut s
  | setNight => exact runs_command _ _ moves_setNight s
  | setDay => exact runs_command _ _ moves_setDay s
  | groupPickup => exact runs_command _ _ moves_groupPickup s
  | directedPickup => exact runs_command _ _ moves_directedPickup s
  | park => exact runs_command _ _ moves_park s
  | retrieve => exact runs_command _ _ moves_retrieve s
  | pageStart => exact runs_command _ _ moves_pageStart s
  | pageEnd => exact runs_command _ _ moves_pageEnd s
  | unknownCommand => exact runs_unknownCommand s
  | confirmTimerExpiry l => exact runs_confirmTimerExpiry l s
  | noAnswerTimerExpiry r => exact runs_noAnswerTimerExpiry r s
  | overflowWaitExpiry r => exact runs_overflowWaitExpiry r s
  | floorDelayExpiry r => exact runs_floorDelayExpiry r s
  | parkTimerExpiry n => exact runs_parkTimerExpiry n s
  | waitLimitExpiry p => exact runs_ite (runs_moves (moves_endPage p _ s)) (runs_of (.refl s))
  | maxDurationExpiry p => exact runs_ite (runs_moves (moves_endPage p _ s)) (runs_of (.refl s))
  | sampleProduce p => exact runs_sampleProduce p s
  | holdoffExpiry => exact runs_ite (runs_moves (moves_evalInterrupt s)) (runs_of (.refl s))
  | frameStart => exact runs_frameStart s
  | micSample order bits => exact runs_micSample order bits s
  | blockComplete order => exact runs_moves (moves_completeBlocks order s)
  | resumeTimerExpiry z => exact runs_resumeTimerExpiry z s
  | rampTimerExpiry z => exact runs_rampTimerExpiry z s
  | _ => cases hc

/-- An access by a command. -/
theorem runs_access (a : Access) (s : State) : RunsBy Write (.next (access a s)) s := runs_of (writes_access a s)

theorem runs_noticePostingComplete (s : State) : RunsBy Write (execNoticePostingComplete s) s := by
  unfold execNoticePostingComplete
  split
  · next q rest _ hq =>
    exact runs_of (((acts_freePort s).writes.trans (writes_postingComplete q rest _ hq)).trans (writes_portFreed _))
  · exact runs_of (.refl s)

theorem runs_landing (s : State) : RunsBy Write (execBlockFetchLands s) s := by
  unfold execBlockFetchLands
  split
  · exact runs_of ((acts_fetchBurstEnded _ s).writes.trans (writes_portFreed _))
  · exact runs_of (.refl s)

/-- Every command but the four that may set the operating state answers a next state, by writes. -/
theorem exec_writes (c : Instr) (s : State) (hc : setsMode c = false) : RunsBy Write (exec c s) s := by
  by_cases hm : stores c = false
  · obtain ⟨t, e, h⟩ := exec_acts c s hm
    exact ⟨t, e, Acts.writes h⟩
  · cases c with
    | tonePatternWrite t i d be => exact runs_ite (runs_access _ s) (runs_access _ s)
    | masterBurstStart read =>
      cases read with
      | false => exact absurd rfl hm
      | true =>
        show RunsBy Write (execMasterBurstStart true s) s
        unfold execMasterBurstStart
        rw [if_pos rfl]
        exact runs_access .read s
    | blockFetchLands => exact runs_landing s
    | noticePostingComplete => exact runs_noticePostingComplete s
    | plainWrite a d be => exact runs_access _ s
    | lineStateWrite l d be => exact runs_access _ s
    | lineConfigWrite l d be => exact runs_access _ s
    | groupHeaderWrite g i d be => exact runs_access _ s
    | memberWordWrite g i d be => exact runs_access _ s
    | permissionWrite p i d be => exact runs_access _ s
    | controlWordWrite d be => exact runs_access _ s
    | linkEnableWrite d be => exact runs_access _ s
    | zoneRecordWrite z i d be => exact runs_access _ s
    | pageTargetWrite t d be => exact runs_access _ s
    | clipDirectoryWrite c i d be => exact runs_access _ s
    | liveBufferWrite k i d be => exact runs_access _ s
    | consumerIndexWrite d be => exact runs_access _ s
    | interruptWordWrite d be => exact runs_access _ s
    | parameterWordWrite n i d be => exact runs_access _ s
    | cmdWrite n d be => exact runs_access _ s
    | resetPinFall => cases hc
    | resetPinRelease straps => cases hc
    | scanBurstEnd => cases hc
    | restart => cases hc
    | _ => exact absurd rfl hm

/-- The end of a scan burst, with the port free again. -/
theorem jumps_scanBurstEnded (b : ScanBurst) (s : State) (hm : s.ptu.mode = .scanning) : Jumps s (scanBurstEnded b s) := by
  have h1 : Writes s ((burstWords b).foldl scanWord s) := Seq.foldl writes_scanWord _ _
  unfold scanBurstEnded
  dsimp only
  generalize (burstWords b).foldl scanWord s = s1 at h1 ⊢
  have h2 : Writes s { s1 with ptu := { s1.ptu with scanned := s1.ptu.scanned + 1 } } := by
    refine h1.trans (Acts.writes ?_)
    exact .one (.ptu _ _ ⟨rfl, rfl, rfl, rfl, rfl⟩)
  generalize { s1 with ptu := { s1.ptu with scanned := s1.ptu.scanned + 1 } } = s2 at h2 ⊢
  have e2 : s2.ptu.mode = .scanning := h2.fixed.2.1.trans hm
  have h3 : Writes s (scanDeliver b s2) := h2.trans (writes_scanDeliver b s2 (by rw [e2]; decide))
  split
  · exact h3.jumps.trans (jumps_endScan _ (h3.fixed.2.1.trans hm))
  · exact h3.jumps

/-- What the end of a scan burst does, step by step. -/
theorem jumps_scanBurstEnd (s : State) : ∃ t, execScanBurstEnd s = .next t ∧ Jumps s t := by
  unfold execScanBurstEnd
  split
  · next b hm _ _ =>
    refine ⟨_, rfl, ?_⟩
    exact ((acts_freePort s).writes.jumps.trans (jumps_scanBurstEnded b _ hm)).trans (writes_portFreed _).jumps
  · exact ⟨s, rfl, .refl s⟩

/-- Every command answers a next state, by writes and the four changes of the operating state. -/
theorem exec_jumps (c : Instr) (s : State) : ∃ t, exec c s = .next t ∧ Jumps s t := by
  by_cases hc : setsMode c = false
  · obtain ⟨t, e, h⟩ := exec_writes c s hc
    exact ⟨t, e, Writes.jumps h⟩
  · cases c with
    | resetPinFall =>
      exact ⟨_, rfl, ((writes_cutPosting s).jumps.then (.pinLow _)).trans (writes_portFreed _).jumps⟩
    | resetPinRelease straps =>
      show ∃ t, execResetPinRelease straps s = .next t ∧ Jumps s t
      unfold execResetPinRelease
      split
      · next hm => exact ⟨_, rfl, .one (.release s straps hm)⟩
      · exact ⟨s, rfl, .refl s⟩
    | scanBurstEnd => exact jumps_scanBurstEnd s
    | restart =>
      show ∃ t, execRestart s = .next t ∧ Jumps s t
      unfold execRestart
      split
      · exact ⟨_, rfl, ((writes_cutPosting s).jumps.then (.restart _ _)).trans (writes_portFreed _).jumps⟩
      · exact ⟨s, rfl, .refl s⟩
    | _ => exact absurd rfl hc

/-- Every step is jumps, once the command is off the queue. -/
theorem step_jumps (s t : State) (h : step s = .next t) : Jumps { s with pending := s.pending.tail } t := by
  cases s with
  | mk pending =>
    cases pending with
    | nil => cases h; exact .refl _
    | cons c rest =>
      obtain ⟨u, e, k⟩ := exec_jumps c ⟨rest, _, _, _, _, _, _, _, _, _⟩
      have e1 : Host.Outcome.next u = .next t := e.symm.trans h
      cases e1
      exact k

end Sys2Proof.Machine
end

