-- ==== Sys2Proof/Laws/PerInstr.lean ====
section
/-! SUPPORT. What a command carries, as syntax: the watched word a write command names, command by command. -/

namespace Sys2Proof.Laws.Carries

open Sys2Proof.Machine

/-- The watched word that a write command names (11.1). -/
def word (i : Instr) : Option Watched := (written i).map (·.1)

/-- The word a well-formed write command names is in the map, below the notice ring (11.1). -/
def Statement (i : Instr) : Prop :=
  i.wellFormed = true → ∀ w, word i = some w → inMap w = true ∧ saOffset w < 0x2200

/-- A command that names no watched word. -/
theorem of_none {i : Instr} (h : word i = none) : Statement i := by
  intro _ w e
  rw [h] at e
  cases e

/-- A command that names a watched word in the map. -/
theorem of_word {i : Instr} {w : Watched} (h : word i = some w) (hm : inMap w = true) (ho : saOffset w < 0x2200) :
    Statement i := by
  intro _ v e
  rw [h] at e
  cases e
  exact ⟨hm, ho⟩

theorem resetPinFall : Statement .resetPinFall := of_none rfl

theorem resetPinRelease (straps : BitVec 4) : Statement (.resetPinRelease straps) := of_none rfl

theorem plantTimeTick : Statement .plantTimeTick := of_none rfl

theorem plainWrite (addr : Address) (data : Word) (be : ByteEnables) : Statement (.plainWrite addr data be) := of_none rfl

theorem masterBurstStart (hold : Bool) : Statement (.masterBurstStart hold) := of_none rfl

theorem scanBurstEnd : Statement .scanBurstEnd := of_none rfl

theorem linePresentation : Statement .linePresentation := of_none rfl

theorem lineStateWrite (line : LineNo) (data : Word) (be : ByteEnables) :
    Statement (.lineStateWrite line data be) :=
  of_word rfl rfl (by simp only [saOffset]; omega)

theorem lineConfigWrite (line : LineNo) (data : Word) (be : ByteEnables) :
    Statement (.lineConfigWrite line data be) :=
  of_word rfl rfl (by simp only [saOffset]; omega)

theorem groupHeaderWrite (group : GroupNo) (word : Fin 8) (data : Word) (be : ByteEnables) :
    Statement (.groupHeaderWrite group word data be) :=
  of_word rfl rfl (by simp only [saOffset]; omega)

theorem memberWordWrite (group : GroupNo) (position : MemberPos) (data : Word) (be : ByteEnables) :
    Statement (.memberWordWrite group position data be) :=
  of_word rfl rfl (by simp only [saOffset]; omega)

theorem permissionWrite (pickup : PickupNo) (word : Fin 2) (data : Word) (be : ByteEnables) :
    Statement (.permissionWrite pickup word data be) :=
  of_word rfl rfl (by simp only [saOffset]; omega)

theorem controlWordWrite (data : Word) (be : ByteEnables) : Statement (.controlWordWrite data be) :=
  of_word rfl rfl (by simp only [saOffset]; omega)

theorem linkEnableWrite (data : Word) (be : ByteEnables) : Statement (.linkEnableWrite data be) :=
  of_word rfl rfl (by simp only [saOffset]; omega)

theorem zoneRecordWrite (zone : ZoneNo) (word : Fin 8) (data : Word) (be : ByteEnables) :
    Statement (.zoneRecordWrite zone word data be) :=
  of_word rfl rfl (by simp only [saOffset]; omega)

theorem pageTargetWrite (target : TargetNo) (data : Word) (be : ByteEnables) :
    Statement (.pageTargetWrite target data be) :=
  of_word rfl rfl (by simp only [saOffset]; omega)

theorem tonePatternWrite (pattern : PatternNo) (word : Fin 9) (data : Word) (be : ByteEnables) :
    Statement (.tonePatternWrite pattern word data be) := by
  intro h w e
  cases e
  have hp : pattern ≠ 0 := by simpa [Instr.wellFormed] using h
  unfold toneWord
  split
  · simp only [inMap, saOffset, bne_iff_ne, ne_eq, hp, not_false_iff, true_and]
    omega
  · simp only [inMap, saOffset, bne_iff_ne, ne_eq, hp, not_false_iff, true_and]
    omega

theorem clipDirectoryWrite (clip : ClipNo) (word : Fin 2) (data : Word) (be : ByteEnables) :
    Statement (.clipDirectoryWrite clip word data be) :=
  of_word rfl rfl (by simp only [saOffset]; omega)

theorem liveBufferWrite (channel : LiveNo) (word : Fin 128) (data : Word) (be : ByteEnables) :
    Statement (.liveBufferWrite channel word data be) :=
  of_word rfl rfl (by simp only [saOffset]; omega)

theorem consumerIndexWrite (data : Word) (be : ByteEnables) : Statement (.consumerIndexWrite data be) :=
  of_word rfl rfl (by simp only [saOffset]; omega)

theorem interruptWordWrite (data : Word) (be : ByteEnables) : Statement (.interruptWordWrite data be) :=
  of_word rfl rfl (by simp only [saOffset]; omega)

theorem parameterWordWrite (slot : SlotNo) (word : Fin 4) (data : Word) (be : ByteEnables) :
    Statement (.parameterWordWrite slot word data be) :=
  of_word rfl rfl (by simp only [saOffset]; omega)

theorem cmdWrite (slot : SlotNo) (data : Word) (be : ByteEnables) : Statement (.cmdWrite slot data be) :=
  of_word rfl rfl (by simp only [saOffset]; omega)

theorem hunt : Statement .hunt := of_none rfl

theorem cancel : Statement .cancel := of_none rfl

theorem signIn : Statement .signIn := of_none rfl

theorem signOut : Statement .signOut := of_none rfl

theorem setNight : Statement .setNight := of_none rfl

theorem setDay : Statement .setDay := of_none rfl

theorem groupPickup : Statement .groupPickup := of_none rfl

theorem directedPickup : Statement .directedPickup := of_none rfl

theorem park : Statement .park := of_none rfl

theorem retrieve : Statement .retrieve := of_none rfl

theorem pageStart : Statement .pageStart := of_none rfl

theorem pageEnd : Statement .pageEnd := of_none rfl

theorem restart : Statement .restart := of_none rfl

theorem unknownCommand : Statement .unknownCommand := of_none rfl

theorem confirmTimerExpiry (line : LineNo) : Statement (.confirmTimerExpiry line) := of_none rfl

theorem noAnswerTimerExpiry (ref : CallRef) : Statement (.noAnswerTimerExpiry ref) := of_none rfl

theorem overflowWaitExpiry (ref : CallRef) : Statement (.overflowWaitExpiry ref) := of_none rfl

theorem floorDelayExpiry (ref : CallRef) : Statement (.floorDelayExpiry ref) := of_none rfl

theorem parkTimerExpiry (slot : ParkNo) : Statement (.parkTimerExpiry slot) := of_none rfl

theorem waitLimitExpiry (page : PageNo) : Statement (.waitLimitExpiry page) := of_none rfl

theorem maxDurationExpiry (page : PageNo) : Statement (.maxDurationExpiry page) := of_none rfl

theorem sampleProduce (page : PageNo) : Statement (.sampleProduce page) := of_none rfl

theorem blockFetchLands : Statement .blockFetchLands := of_none rfl

theorem noticePostingComplete : Statement .noticePostingComplete := of_none rfl

theorem holdoffExpiry : Statement .holdoffExpiry := of_none rfl

theorem frameStart : Statement .frameStart := of_none rfl

theorem micSample (order : List ZoneNo) (bits : Vector (BitVec 128) 24) : Statement (.micSample order bits) := of_none rfl

theorem blockComplete (order : List ZoneNo) : Statement (.blockComplete order) := of_none rfl

theorem resumeTimerExpiry (zone : ZoneNo) : Statement (.resumeTimerExpiry zone) := of_none rfl

theorem rampTimerExpiry (zone : ZoneNo) : Statement (.rampTimerExpiry zone) := of_none rfl

end Sys2Proof.Laws.Carries
end

