-- ==== Sys2Proof/Laws/Requests.lean ====
section
/-! SUPPORT. The pickup candidates and the checks of a page request, against the conditions of their rules. -/

namespace Sys2Proof.Machine

theorem inReach_iff (r : LineNo) (q : PickupNo) (s : State) : inReach (pickupOf r s) q s = true ↔ Reaches r q s := by
  change inReach (s.lmon.shadows.get r).pickup q s = true ↔ _
  simp only [inReach, Reaches, Bool.and_eq_true, Bool.or_eq_true, decide_eq_true_eq, and_assoc]

theorem not_callerOf_iff (r : LineNo) (c : CallRecord) : callerOf c ≠ some r ↔ ∀ h, c.hunt = some h → h.caller ≠ some r := by
  unfold callerOf
  cases c.hunt <;> simp

/-- The ringing candidates are those of R54. -/
theorem ringingCandidate_iff (r : LineNo) (c : CallRecord) (s : State) : ringingCandidate r s c = true ↔ RingsInReach r c s := by
  rw [RingsInReach, ← not_callerOf_iff]
  simp only [ringingCandidate, ownCall, inReach_iff, ← pickupOf.eq_1, Bool.and_eq_true, Bool.not_eq_true', Bool.or_eq_false_iff,
    List.any_eq_true, List.any_eq_false, decide_eq_true_eq, decide_eq_false_iff_not, and_assoc]

/-- The queued candidates are those of R55. -/
theorem queuedCandidate_iff (r : LineNo) (c : CallRecord) (s : State) : queuedCandidate r s c = true ↔ QueuesInReach r c s := by
  unfold queuedCandidate QueuesInReach
  cases c.hunt with
  | none => simp
  | some h => 
    simp only [Bool.and_eq_true, decide_eq_true_eq, inReach_iff, Option.some.injEq, exists_eq_left']
    rw [and_assoc, and_comm (b := h.caller ≠ some r)]

theorem freePage_none (s : State) : freePage s = none ↔ ∀ p : PageNo, (s.pctl.pages.get p).isSome = true := by
  simp [freePage, ← Option.ne_none_iff_isSome]

theorem channelBusy_iff (k : LiveNo) (s : State) :
    channelBusy k s = true ↔ ∃ p : PageNo, (s.pctl.pages.get p).any (fun r => decide (r.source = .live k)) = true := by
  simp only [channelBusy, List.any_eq_true, List.mem_finRange, true_and]
  refine exists_congr fun p => ?_
  cases s.pctl.pages.get p <;> simp

theorem targetZones_nil (t : TargetNo) (s : State) :
    targetZones t s = [] ↔ ∀ z : ZoneNo, (s.pctl.targets.get t).getLsbD z.val = true → s.pctl.enabled.get z = false := by
  simp [targetZones]

theorem requestSource_none (q : PageRequest) : requestSource q = none ↔ q.kind < 1 ∨ 3 < q.kind ∨ (q.kind = 1 ∧ 3 < q.number)
    ∨ (q.kind = 2 ∧ 63 < q.number) ∨ (q.kind = 3 ∧ (q.number = 0 ∨ 15 < q.number)) := by
  unfold requestSource
  split <;> (try split) <;> simp_all <;> omega

theorem requestSource_some (q : PageRequest) (x : PageSource) (h : requestSource q = some x) :
    (q.kind = 1 ∧ x = .live (Fin.ofNat 4 q.number)) ∨ (q.kind = 2 ∧ x = .clip (Fin.ofNat 64 q.number))
      ∨ (q.kind = 3 ∧ x = .tone (Fin.ofNat 16 q.number)) := by
  unfold requestSource at h
  split at h <;> (try split at h) <;> simp_all

/-- A request for a page is refused as R93 says, and otherwise answered with the lowest free record. -/
theorem checkPage_spec (q : PageRequest) (s : State) :
    match checkPage q s with
    | .error e => pageRefusal q.target q.kind q.number q.preamble q.maxDuration q.waitLimit s = some e
    | .ok (p, r) => pageRefusal q.target q.kind q.number q.preamble q.maxDuration q.waitLimit s = none
        ∧ freePage s = some p ∧ ∃ x, requestSource q = some x ∧ r = requestedPage q x := by
  have none_iff := requestSource_none q
  unfold checkPage pageRefusal
  simp only [← freePage_none, ← channelBusy_iff, ← targetZones_nil]
  cases h : requestSource q with
  | none => exact if_pos (by have := none_iff.1 h; omega)
  | some x =>
    have known : ¬ _ := fun bad => nomatch h.symm.trans (none_iff.2 bad)
    by_cases range : 31 < q.target ∨ 15 < q.preamble ∨ 600 < q.maxDuration ∨ 60 < q.waitLimit
    · simp only [if_pos range]
      exact if_pos (by omega)
    · simp only [if_neg range]
      rw [if_neg (c := _ ∨ q.kind < 1 ∨ _) (by omega)]
      obtain ⟨k, rfl⟩ | ⟨k, rfl⟩ | ⟨k, rfl⟩ := requestSource_some q x h <;> cases freePage s <;> simp only [k] <;> simp <;>
        (try split_ifs) <;> simp_all

end Sys2Proof.Machine
end

