-- ==== Sys2Proof/Tests/Slice0.lean ====
section
/-! SUPPORT. The model's own tests: the ill-formed terms WellFormed refuses, the manual's worked numbers, and, for every statement
with hypotheses, a concrete state and operands that meet them. -/

namespace Sys2Proof.Tests

open Sys2Proof Sys2Proof.Machine

/-! ### Small states -/

/-- The part in service, every block at its power-on values. -/
def ready : State := { State.reset with ptu := { Ptu.initial with mode := .ready } }

/-- The part during SCANNING, with a number of bursts done and a scan burst on the port. -/
def scanning (n : Nat) : State :=
  { State.reset with ptu := { Ptu.initial with mode := .scanning, scanned := n, burst := some .scan } }

/-- The state a command answers. -/
def next (c : Instr) (s : State) : State :=
  match exec c s with
  | .next t => t
  | _ => s

theorem exec_next (c : Instr) (s : State) : exec c s = .next (next c s) := by
  obtain ⟨t, h, _⟩ := exec_jumps c s
  unfold next
  rw [h]

/-- The request slots with one command waiting, in slot 3. -/
def slots (code : BitVec 8) (p : Params) : Rqu :=
  { Rqu.initial with
    slots := putAt Rqu.initial.slots 3 { SlotRec.initial with state := .pending, code := code, snapshot := p } }

/-- The part in service with one command waiting in slot 3. -/
def asked (code : BitVec 8) (p : Params) : State := { ready with rqu := slots code p }

theorem served (code : BitVec 8) (p : Params) (s : State) (hm : s.ptu.mode = .ready) (hr : s.rqu = slots code p) :
    Served code.toNat 3 s := by
  refine ⟨hm, ?_, ?_⟩
  · simp [nextPending, hr, slots, rotationFrom, Rqu.initial, SlotRec.initial, List.range, List.range.loop]
  · simp [hr, slots]

/-- A call's HUNT fields in a group, no timer running. -/
def part (g : GroupNo) : HuntPart := ⟨g, 0, 0, none, [], false, none, none, none⟩

/-- A queued call of a group. -/
def queuedCall (r : CallRef) (g : GroupNo) : CallRecord := ⟨r, .queued, [], [], some (part g)⟩

/-- A state with call records. -/
def withCalls (cs : List CallRecord) (s : State) : State := { s with deng := { s.deng with calls := cs } }

/-- A state with a line's shadow. -/
def withLine (l : LineNo) (x : LineShadow) (s : State) : State := modShadow l (fun _ => x) s

/-- An IDLE line of a pickup group. -/
def idleLine : LineShadow := ⟨.idle, 0, false, false, none⟩

/-- A page record that plays a live channel. -/
def livePageRec (st : PageState) : PageRec :=
  { origin := .request, target := 0, source := .live 3, priority := .normal, policy := .partialZones, preamble := 0,
    trim := 0, state := st, wasActive := true, wanted := [], endCause := none, maxDuration := 1, maxAt := some 0,
    waitLimit := 1, waitAt := some 0 }

/-- The part in service with page 15 alone in use. -/
def onePage (st : PageState) : State :=
  { ready with pctl := { Pctl.initial with
      pages := putAt Pctl.initial.pages 15 (some (livePageRec st)), pageOrder := [15] } }

/-- A zone held by page 15, with its gain and samples. -/
def withZone (z : ZoneNo) (go : Bool) (x : ZosZone) (s : State) : State :=
  modZos z (fun _ => x) (putHolder z (some ⟨15, .normal, 0, go⟩) s)

/-- A fetch that has run its first three bursts. -/
def landing (stale : Bool) (data : List Word) : Fetch := ⟨false, 0, 0, 3, data, stale⟩

/-- A clip context that plays buffer A. -/
def clipCtx (a : Buffer) : ClipCtx := ⟨5, 0, 1, true, 0, a, .empty, false, true, false⟩

/-- A group with one signed-in member line at position 31, in a mode. -/
def huntGroup (mode : GroupMode) (line : LineNo) : HuntGroup :=
  { HuntGroup.initial with
    config := { GroupConfig.initial with mode := mode, capacity := 16, ringTime := 20 }
    members := putAt HuntGroup.initial.members 31 ⟨line, true, true, true, 0⟩ }

/-- The part in service with group 63 so, its member line IDLE. -/
def oneMember (mode : GroupMode) : State :=
  { withLine 1023 idleLine ready with
    lmon := { (withLine 1023 idleLine ready).lmon with idleOrder := [1023] }
    deng := { Deng.initial with groups := putAt Deng.initial.groups 63 (huntGroup mode 1023) } }

/-- HUNT of call 0xFFFF into group 63, priority 3, caller line 1023. -/
def huntParams : Params := ⟨0xFFFF, 0x3003F, 0x800003FF, 0⟩

/-- The state for a HUNT that selects the member. -/
def huntOffered : State := { oneMember .circular with rqu := slots 0x01 huntParams }

/-- The state for a HUNT into a group without an eligible member. -/
def huntQueued : State :=
  { ready with rqu := slots 0x01 huntParams, deng := { (withCalls [queuedCall 7 63] ready).deng with
      groups := putAt Deng.initial.groups 63 { huntGroup .linear 5 with config :=
        { (huntGroup .linear 5).config with capacity := 2 } } } }

/-- The same in NIGHT. -/
def huntNight : State :=
  { huntQueued with deng := { huntQueued.deng with groups := modAt huntQueued.deng.groups 63 fun h => { h with night := true } } }

/-- A call of group 63, RINGING at line 1 by an offer, its no-answer timer out, with a reservation of line 2 that is out. -/
def ringingCall9 (rs : List Reservation) : CallRecord :=
  ⟨9, .ringing, [⟨1023, true⟩], rs, some { part 63 with noAnswerAt := some 0 }⟩

/-- A reservation whose window has run out. -/
def windowOut : State :=
  { oneMember .linear with
    lmon := (withLine 1023 { idleLine with reservation := some 9 } (oneMember .linear)).lmon
    deng := { (oneMember .linear).deng with calls :=
      [⟨9, .ringing, [⟨1, true⟩], [⟨1023, 0⟩], some (part 63)⟩, ⟨8, .ringing, [⟨2, false⟩], [], none⟩] } }

/-- A call that has rung at group 63's member without an answer. -/
def unanswered (mode : GroupMode) : State :=
  withCalls [ringingCall9 []]
    { withLine 1023 { idleLine with state := .ringing 9 } ready with
      deng := { Deng.initial with groups := putAt Deng.initial.groups 63 (huntGroup mode 1023) } }

/-- A call queued in group 0 whose three timers are out, with group 63 as the overflow target when one is given. -/
def timersOut (target : Option GroupNo) : State :=
  { ready with deng := { Deng.initial with
      calls := [queuedCall 7 63,
        ⟨9, .queued, [], [], some { part 0 with hops := 3, overflowAt := some 0, floorAt := some 0 }⟩]
      groups := putAt (putAt Deng.initial.groups 63 (huntGroup .linear 5)) 0
        { HuntGroup.initial with config := { GroupConfig.initial with overflowTarget := target } } } }

/-- A group pickup by line 1023 of pickup group 63 with a call ringing at line 0 of the same group behind a DIRECT call
elsewhere. -/
def pickupRinging : State :=
  withLine 1023 { idleLine with pickup := 63 }
    (withLine 0 ⟨.ringing 9, 63, false, false, none⟩
      (withCalls [⟨8, .ringing, [⟨5, false⟩], [], none⟩, ⟨9, .ringing, [⟨0, false⟩], [], none⟩]
        (asked 0x07 ⟨1023, 0, 0, 0⟩)))

/-- A group pickup of a queued call. -/
def pickupQueued : State :=
  withLine 1023 { idleLine with pickup := 63 }
    { asked 0x07 ⟨1023, 0, 0, 0⟩ with deng := { Deng.initial with
        calls := [queuedCall 9 63]
        groups := modAt Deng.initial.groups 63 fun h => { h with config := { h.config with linkedPickup := 63 } } } }

/-- A directed pickup by line 1023 at line 0. -/
def pickupDirected : State := { pickupRinging with rqu := slots 0x08 ⟨1023, 0, 0, 0⟩ }

/-- PAGE_START of live channel 3 in target 31, ALL_OR_WAIT, of a priority, with zones 0 and 23 enabled. -/
def pageStarting (priority : Word) : State :=
  { asked 0x0B ⟨31 + 256 * priority + 4096, 0x301, 0, 600 + 65536 * 60⟩ with
    pctl := { Pctl.initial with
      targets := putAt Pctl.initial.targets 31 0x800001, enabled := putAt (putAt Pctl.initial.enabled 0 true) 23 true } }

/-- A zone's output stage at full gain. -/
def fullZone (fifo : List Sample) : ZosZone := ⟨⟨96, 0, 96, 0, 4⟩, 96, 96, none, fifo⟩

/-- Page 15 holds zone 23 on link 2, which is enabled. -/
def holding (st : PageState) (fifo : List Sample) : State :=
  withZone 23 false (fullZone fifo) { onePage st with zos := { Zos.initial with linkEnable := 7, linkNow := 7 } }

/-- Page 15 plays a tone step with two samples left. -/
def tonePlaying : State :=
  modContext 15 (fun x => { x with playing := .tone ⟨.source, 4, 0, ⟨440, 80, 2⟩, 2, 3604, 0, false⟩ })
    (holding .active [])

/-- A zone record being let go one step above 0, by page 15 that holds another zone. -/
def lettingGo : State :=
  withZone 0 true { fullZone [] with gt := 0, ga := 1, rampAt := some 0 } (holding .releasing [])

/-- The part in service with a fetch of page 15 outstanding. -/
def fetching (x : Playing) : State :=
  { ready with ctp := { Ctp.initial with
      contexts := putAt Ctp.initial.contexts 15 ⟨ClipEntry.initial, x, false⟩
      fetches := putAt Ctp.initial.fetches 15 (some ⟨true, 0, 0, 3, [], false⟩) } }

/-- The part in service with one notice queued. -/
def noticed : State := { ready with ntu := { Ntu.initial with queue := [⟨.ready false 0, 0⟩] } }

/-- A full buffer A with 16 samples left. -/
def sixteen : Buffer := .full 0 62 false (List.replicate 16 0)

/-- The part with page 15's fetch about to land. -/
def landsNow (x : Playing) (f : Fetch) : State :=
  putFetch 15 (some f) { fetching x with ptu := { ready.ptu with burst := some (.fetch 15) } }

/-- The part during SCANNING between two bursts. -/
def gap (n : Nat) : State := { scanning n with ptu := { (scanning n).ptu with burst := none } }

/-- A line in a state, without a reservation. -/
def lineIn (st : LineState) : LineShadow := ⟨st, 0, false, false, none⟩

/-- The port takes an access at once where it is free and no hold applies. -/
theorem portFree (s : State) (hb : s.ptu.burst = none) (hw : s.ptu.waiting = [])
    (hh : holdCondition s = false ∨ s.ptu.holdMark = true) : PortFree s := ⟨hb, hw, hh⟩

theorem portReady : PortFree ready := portFree _ rfl rfl (.inl (by decide +kernel))

/-- No group has a floor-ring target. -/
theorem floorOff (g : GroupNo) (s : State) (h : (s.deng.groups.get g).config.floorTarget = none)
    (c : (s.deng.groups.get g).floorCondition = false) : FloorOff g s := ⟨h, c⟩

/-- The only HUNT record of a list of calls. -/
theorem alone (r : CallRef) (s : State) (h : ∀ d ∈ s.deng.calls, d.ref ≠ r → d.hunt = none) : Alone r s := h

/-- The part is in service, the port takes an access at once, and the memories are in canonical form. -/
def InService (s : State) : Prop := s.ptu.mode = .ready ∧ PortFree s ∧ memoriesCanonical s

/-- The references of a concrete state are sound. -/
theorem references (s : State)
    (h : s.deng.calls.length ≤ Config.callRecords ∧ (s.deng.calls.map (·.ref) ++ parkedRefs s).Nodup) : referencesSound s := h

theorem inService (s : State) (h : s.ptu = ready.ptu) (hc : holdCondition s = false) : InService s :=
  ⟨by rw [h]; rfl, portFree _ (by rw [h]; rfl) (by rw [h]; rfl) (.inl hc), by rw [memoriesCanonical, h]; exact ⟨rfl, rfl⟩⟩

/-- A DIRECT call ringing at some lines. -/
def directCall (r : CallRef) (ls : List LineNo) : CallRecord := ⟨r, .ringing, ls.map fun l => ⟨l, false⟩, [], none⟩

/-- A call of group 63 in a state, with its ringing set and its reservations. -/
def huntCall (st : CallState) (es : List RingEntry) (rs : List Reservation) : CallRecord := ⟨9, st, es, rs, some (part 63)⟩

/-- The part in service with some calls, and line 1023 in a state and reserved for call 9 or not. -/
def tracking (cs : List CallRecord) (st : LineState) (reserved : Bool) : State :=
  withLine 1023 { lineIn st with reservation := if reserved = true then some 9 else none } (withCalls cs ready)

theorem canOnlyQueue (g : GroupNo) (s : State) (hn : (s.deng.groups.get g).night = false)
    (he : ∀ i, eligibleAt g i s = false) (hr : (queueOf g s).length < (s.deng.groups.get g).config.capacity) :
    CanOnlyQueue g s := ⟨by rw [if_neg (by simp [hn])]; exact he, hr⟩

/-- No page in use can take a zone or is RELEASING, and every holder and every entry of the Page Order is a page in use. -/
theorem settled (s : State)
    (h : ∀ p, ((s.pctl.pages.get p).all fun r => decide (zonesToTake r s = []) && decide (r.state ≠ .releasing)) = true)
    (hh : ∀ z, ((s.pctl.holders.get z).all fun x => (s.pctl.pages.get x.page).isSome) = true)
    (ho : ∀ p ∈ s.pctl.pageOrder, (s.pctl.pages.get p).isSome = true) : Settled s := by
  refine ⟨fun p r e => ?_, fun p r e => ?_, fun z x e => ?_, ho⟩
  · have := h p; rw [e] at this; simp at this; exact this.1
  · have := h p; rw [e] at this; simp at this; exact this.2
  · have := hh z; rw [e] at this; simpa using this

/-- A page that holds zone 23 alone and is the only one in the Page Order, without an end cause. -/
theorem endsHolding (r : PageRec) (s : State) (hp : s.pctl.pages.get 15 = some r) (he : r.endCause = none)
    (hh : heldZones 15 s = [23]) (ha : (s.zos.zones.get 23).ga ≠ 0) (ho : s.pctl.pageOrder = [15]) : EndsHolding 15 r s :=
  ⟨hp, he, by simp [hh], by simpa [hh] using ha, ho⟩

/-- A step of 20 ms at 440 Hz first, a second as given; repeat count `n`. -/
def twoSteps (second : ToneStep) (n : Nat) : TonePattern :=
  ⟨putAt (putAt TonePattern.initial.steps 0 ⟨440, 80, 2⟩) 1 second, n⟩

/-! ### Ill-formed terms -/

/-- Pattern 0 means none (00_scope.md, "Numbering"). -/
theorem test_wellFormed_pattern0 : (Instr.tonePatternWrite 0 0 0 0xF).wellFormed = false := by decide

theorem test_wellFormed_pattern1 : (Instr.tonePatternWrite 1 8 0 0xF).wellFormed = true := by decide

/-- Reference 0 means no call (00_scope.md, "Numbering"). -/
theorem test_wellFormed_noAnswer0 : (Instr.noAnswerTimerExpiry 0).wellFormed = false := by decide

theorem test_wellFormed_overflowWait0 : (Instr.overflowWaitExpiry 0).wellFormed = false := by decide

theorem test_wellFormed_floorDelay0 : (Instr.floorDelayExpiry 0).wellFormed = false := by decide

/-- No row of the table gives bits. -/
theorem test_decodeTableWord : decodeTableWord 32 0xFFFFFFFF = none := rfl

/-! ### The manual's worked numbers -/

/-- 11.1: the ends of the regions, and offsets that carry no watched word. -/
theorem test_watchedAt : watchedAt 0x0009 = some .control ∧ watchedAt 0x00BC = some (.cmd 15) ∧ watchedAt 0x00BD = none
    ∧ watchedAt 0x0BFF = some (.member 63 31) ∧ watchedAt 0x0E47 = none ∧ watchedAt 0x0E48 = some (.toneStep 1 0)
    ∧ watchedAt 0x0EC0 = none ∧ watchedAt 0x1FFD = some (.lineConfig 1023) ∧ watchedAt 0x1FFE = none
    ∧ watchedAt 0x2200 = none := by decide

theorem test_answeredAt : answeredAt 0x0003 = none ∧ answeredAt 0x00BF = some (.slotResult1 15)
    ∧ answeredAt 0x0DD7 = some (.zoneStatus 23) ∧ answeredAt 0x0E2F = some (.pageStatus 15) := by decide

/-- R2's table: a state word of each code, with the reference in bits 31:16. -/
theorem test_decodeLineState : decodeLineState 0x12340000 = (.idle, []) ∧ decodeLineState 0x12340002 = (.ringing 0x1234, [])
    ∧ decodeLineState 0x00000003 = (.busy, [.reference]) ∧ decodeLineState 0x12340003 = (.talking 0x1234, [])
    ∧ decodeLineState 0x12340004 = (.outOfService, []) ∧ decodeLineState 0x12340005 = (.busy, [.code]) := by decide

/-- 07's worked sequence: 10000 and -10000 at GA 25, 89, 80 and 75. -/
theorem test_scaled : scaled 10000 25 = 21 ∧ scaled (-10000) 25 = -22 ∧ scaled 10000 89 = 5452 ∧ scaled (-10000) 89 = -5453
    ∧ scaled 10000 80 = 2500 ∧ scaled 10000 75 = 1621 := by decide

/-- 07's worked sequence: NL 74, Q 60, S 12, GB 70, trim -2 and GMAX 92 give 89; with S 4 and GMAX 80, 75; MIC_SILENT, 62. -/
theorem test_targetGain :
    let a : AmonZone := { AmonZone.initial with fields := { AmonFields.initial with mic := true, quiet := 60 }, ne := 1184 }
    let h : Holder := ⟨12, .normal, -2, false⟩
    targetGain (some h) a ⟨92, 70, 64, 12, 4⟩ = 89 ∧ targetGain (some h) a ⟨80, 70, 64, 4, 4⟩ = 75
      ∧ targetGain (some h) { a with window := .micSilent } ⟨92, 70, 64, 12, 4⟩ = 62
      ∧ targetGain (some ⟨3, .emergency, 0, false⟩) a ⟨80, 70, 64, 4, 4⟩ = 80
      ∧ targetGain (some ⟨3, .emergency, 0, true⟩) a ⟨80, 70, 64, 4, 4⟩ = 0 := by decide

/-- 05's worked sequence: 440 Hz at level 80, the first six samples and the phase. -/
theorem test_toneSamples :
    phaseIncrement 440 = 3604
      ∧ ([0, 3604, 7208, 10812, 14416, 18020].map fun p => (toneSample ⟨440, 80, 2⟩ p).toInt)
        = [0, 901, 1802, 2703, 3604, 3687] := by decide

/-- 06's worked sequence: four blocks with RISE 40 and FALL 8, HIGH 72 and LOW 66. -/
theorem test_blocks :
    let f : AmonFields := ⟨true, 8, 40, 8, 60, 72, 66, 4, 10, 30⟩
    [levelCode 2600, levelCode 3000, levelCode 600, levelCode 400] = [90, 91, 73, 68]
      ∧ [nextNe f 1120 90, nextNe f 1160 91, nextNe f 1200 73, nextNe f 1192 68] = [1160, 1200, 1192, 1184]
      ∧ nextWindow f .normal 72 0 90 = .normal ∧ nextWindow f .normal 75 0 91 = .loud ∧ nextWindow f .loud 66 0 68 = .loud
      ∧ nextWindow f .loud 65 0 65 = .normal ∧ nextWindow f .normal 0 80 0 = .micSilent := by decide

/-- 06's worked sequence: the third sample's e and the accumulator with s = 10. -/
theorem test_dcRemoval : removeDc 6 0 16384 = 16384 ∧ nextDc 6 0 16384 = 1048576 ∧ removeDc 6 1048576 16384 = 16368 := by
  decide

/-- 09's worked sequence, events 3 and 4: 141 is taken, 60 is not. -/
theorem test_consumerAdvances :
    consumerAdvances 141 { ready with ntu := { Ntu.initial with producer := 40, consumer := 41 } } = true
      ∧ consumerAdvances 60 { ready with ntu := { Ntu.initial with producer := 50, consumer := 141 } } = false := by
  decide

/-- 11.6: OFFER of reference 0x2E07 in group 5 at line 412, raised at 1000 ms. -/
theorem test_recordWords : recordWords ⟨.offer 5 0x2E07 412, 1000⟩ = [0x00000501, 0x00002E07, 412, 1000] := by decide

/-- 11.2: Part Status in service after 3 RESTARTs. -/
theorem test_partStatus : answeredWord .partStatus { ready with ptu := { ready.ptu with restartCount := 3 } } = 0x64310003 := by
  decide

/-! ### One step of a family -/

/-- R5: an IDLE write appends the line to the Idle Order. -/
theorem test_lineStateWrite_idle : (next (.lineStateWrite 412 0 0xF) ready).lmon.idleOrder = [412] := by decide +kernel

/-- R165, R171: nothing is raised before READY, and a raised notice carries the plant time. -/
theorem test_lineStateWrite_fault :
    (next (.lineStateWrite 412 7 0xF) { ready with ptu := { ready.ptu with plantTime := 9 } }).ntu.queue
      = [⟨.configFault ⟨.lineState, .code, 412⟩, 9⟩] := by decide +kernel

/-- R138: one step, and the timer starts again with RAMP. -/
theorem test_rampTimerExpiry :
    (next (.rampTimerExpiry 23) (modZos 23 (fun x => { x with gt := 0, rampAt := some 0 }) (holding .active []))).zos.zones.get 23
      = ⟨⟨96, 0, 96, 0, 4⟩, 0, 95, some 4, []⟩ := by decide +kernel

/-- R146: a zone at gain 96 outputs its oldest sample. -/
theorem test_frameStart :
    let t := next .frameStart (holding .active [0xFF9C, 5])
    t.zos.slotOut.get 23 = 0xFF9C ∧ (t.zos.zones.get 23).fifo = [5] := by decide +kernel

/-- R92, R94: an empty page ended by PAGE_END raises PAGE_STATE (ENDED, REQUEST). -/
theorem test_pageEnd :
    let t := next .pageEnd { onePage .active with rqu := slots 0x0C ⟨15, 0, 0, 0⟩ }
    t.ntu.queue = [⟨.pageState 15 .ended (some .request) .request .normal, 0⟩] ∧ t.pctl.pageOrder = [] := by decide +kernel

/-! ### A state and operands for every statement with hypotheses -/

theorem witness_StepTakesFront : ∃ (c : Instr) (rest : List Instr) (s : State), s.pending = c :: rest :=
  ⟨.frameStart, [], { ready with pending := [.frameStart] }, rfl⟩

/-- For MemoriesKept, ZonesKept, TablesKept and NoticeUnitKept. -/
theorem witness_invariants : ∃ s t : State, memoriesCanonical s ∧ zonesSound s ∧ chainsInStep s ∧ idleOrderSound s
    ∧ noticesSound s ∧ referencesSound s ∧ interruptSound s ∧ portSound s ∧ step s = .next t := by
  refine ⟨{ ready with pending := [.plantTimeTick] }, _, ⟨rfl, rfl⟩, fun z => ?_, fun y z => ?_, ?_, ?_, ?_, ?_, ?_, rfl⟩
  · constructor <;> simp [ready, State.reset, Pctl.initial, Zos.initial, ZosZone.initial, emergencyHeld]
  · simp [ready, State.reset]
  · simp [idleOrderSound, ready, State.reset, Lmon.initial, LineShadow.initial]
  · exact ⟨by decide, by decide, by decide⟩
  · exact ⟨by decide, by decide +kernel⟩
  · exact ⟨by decide, fun h => by cases h⟩
  · exact ⟨fun h => absurd rfl h, fun h => by cases h⟩

/-- The four commands that change the operating state. -/
theorem witness_OperatingStateChanges :
    (∃ s t, exec (.resetPinRelease 15) s = .next t ∧ t.ptu.mode ≠ s.ptu.mode)
      ∧ (∃ s t, exec .scanBurstEnd s = .next t ∧ t.ptu.mode ≠ s.ptu.mode)
      ∧ (∃ s t, exec .restart s = .next t ∧ t.ptu.mode ≠ s.ptu.mode)
      ∧ (∃ s t, exec .resetPinFall s = .next t ∧ t.ptu.mode ≠ s.ptu.mode) :=
  ⟨⟨State.reset, _, exec_next _ _, by decide +kernel⟩, ⟨scanning 669, _, exec_next _ _, by decide +kernel⟩,
    ⟨asked 0x0D ⟨0, 0, 0, 0⟩, _, exec_next _ _, by decide +kernel⟩, ⟨ready, _, exec_next _ _, by decide +kernel⟩⟩

theorem witness_InputsKept :
    ∃ (c : Instr) (s t : State), isWrite c = false ∧ setsMode c = false ∧ s.ptu.waiting = [] ∧ exec c s = .next t :=
  ⟨.frameStart, ready, _, rfl, rfl, rfl, exec_next _ _⟩

/-- In service, during SCANNING with the word read and not read, and while the reset pin is low. -/
theorem witness_WritesStored :
    ∀ s ∈ [ready, gap 670, gap 669, State.reset], ∃ (c : Instr) (w : Watched) (d : Word) (be : ByteEnables),
      c.wellFormed = true ∧ written c = some (w, d, be) ∧ memoriesCanonical s ∧ PortFree s := by
  intro s hs
  refine ⟨.lineStateWrite 1023 1 0x8, _, _, _, rfl, rfl, ?_⟩
  simp only [List.mem_cons, List.not_mem_nil, or_false] at hs
  rcases hs with rfl | rfl | rfl | rfl <;> exact ⟨⟨rfl, rfl⟩, portFree _ rfl rfl (.inl (by decide +kernel))⟩

/-- The last live word, the first and the last repeat word, the words of the first burst and of the last. -/
theorem witness_MapRoundTrip : inMap (.live 3 127) = true ∧ watchedAt 0x21FF = some (.live 3 127)
    ∧ inMap (.toneRepeat 1) = true ∧ watchedAt 0x0EC1 = some (.toneRepeat 1) ∧ inMap (.toneRepeat 15) = true
    ∧ inMap .consumer = true ∧ inMap (.lineConfig 1023) = true := by decide

theorem witness_FieldDecodes : 255 < 256 := by decide

theorem witness_ResetPinAndClock : State.reset.ptu.mode = .resetLow ∧ noPosting ready ∧ ready.ptu.waiting = []
    ∧ ready.ptu.mode ≠ .resetLow :=
  ⟨rfl, .inr rfl, rfl, by decide⟩

/-- While the pin is low, and at the first and the last address after the watched words. -/
theorem witness_PlainWriteStores :
    (State.reset.ptu.mode = .resetLow ∧ memoriesCanonical State.reset ∧ PortFree State.reset)
    ∧ (memoriesCanonical ready ∧ PortFree ready ∧ watchedWord 0x2200 ready = none ∧ watchedWord 0x3FFFFF ready = none) :=
  ⟨⟨rfl, ⟨rfl, rfl⟩, portFree _ rfl rfl (.inl (by decide +kernel))⟩, ⟨rfl, rfl⟩, portReady, by decide, by decide⟩

theorem witness_BurstOrder :
    ((gap 669).ptu.burst = none ∧ (gap 669).ptu.waiting = [] ∧ (gap 669).ptu.mode = .scanning ∧ (gap 669).ptu.scanned < 670)
    ∧ (noticed.ptu.burst = none ∧ noticed.ptu.waiting = [] ∧ noticed.ptu.mode = .ready
      ∧ (∀ p, urgentFetch p noticed = false) ∧ postingDue noticed = true)
    ∧ (let s := fetching .idle;
      s.ptu.burst = none ∧ s.ptu.waiting = [] ∧ s.ptu.mode = .ready
        ∧ (15 : PageNo) = Fin.ofNat 16 (s.ptu.fetchPointer.val + 1 + 15) ∧ (s.ctp.fetches.get 15).isSome = true
        ∧ urgentFetch 15 s = true
        ∧ ∀ j < 15, urgentFetch (Fin.ofNat 16 (s.ptu.fetchPointer.val + 1 + j)) s = false)
    ∧ (let s := fetching (.clip (clipCtx sixteen));
      s.ptu.burst = none ∧ s.ptu.waiting = [] ∧ s.ptu.mode = .ready ∧ (s.ctp.fetches.get 15).isSome = true
        ∧ (∀ q, urgentFetch q s = false) ∧ postingDue s = false
        ∧ ∀ j < 15, s.ctp.fetches.get (Fin.ofNat 16 (s.ptu.fetchPointer.val + 1 + j)) = none) := by
  decide +kernel

/-- R178: a write that meets a burst on the port waits, and is carried when the burst ends. -/
theorem test_plainWrite_waits :
    let t := next (.plainWrite 0x3000 7 0xF) (scanning 0)
    t.ptu.waiting = [.plain 0x3000 7 0xF] ∧ t.ptu.array = [] ∧ arrayWord 0x3000 (next .scanBurstEnd t) = 7 := by decide +kernel

/-- An access of each kind; a burst on the port; its end for each kind of burst; and a hold, by a posting and by a burst of a
fetch. -/
theorem witness_PortWaits :
    ((Instr.lineStateWrite 1023 1 0xF).wellFormed = true
      ∧ written (.lineStateWrite 1023 1 0xF) = some (.lineState 1023, 1, 0xF))
    ∧ (scanning 0).ptu.burst ≠ none
    ∧ (∀ x ∈ [(Instr.scanBurstEnd, scanning 669), (.blockFetchLands, landsNow .idle (landing true [])),
        (.noticePostingComplete, { noticed with ptu := { noticed.ptu with burst := some .posting } })],
      x.2.ptu.burst ≠ none
        ∧ ∃ t, exec x.1 { x.2 with ptu := { x.2.ptu with waiting := [.read] } } = .next t ∧ t.ptu.burst = none
          ∧ t.ptu.waiting = [])
    ∧ (∀ s ∈ [fetching .idle, { noticed with ptu := { noticed.ptu with plantTime := 3 } }],
      s.ptu.burst = none ∧ s.ptu.waiting = [] ∧ s.ptu.heldAccess = false ∧ holdCondition s = true ∧ s.ptu.holdMark = false
        ∧ ∃ t, exec (.masterBurstStart false) s = .next t) := by
  refine ⟨⟨rfl, rfl⟩, by decide, fun x hx => ?_, fun s hs => ?_⟩
  · simp only [List.mem_cons, List.not_mem_nil, or_false] at hx
    rcases hx with rfl | rfl | rfl <;> exact ⟨by decide +kernel, _, exec_next _ _, by decide +kernel, by decide +kernel⟩
  · simp only [List.mem_cons, List.not_mem_nil, or_false] at hs
    rcases hs with rfl | rfl <;>
      exact ⟨by decide +kernel, by decide +kernel, by decide +kernel, by decide +kernel, by decide +kernel, _, exec_next _ _⟩

/-- The first burst and the last. -/
theorem witness_ScanBurstCopies : ∀ x ∈ [(0, ScanBurst.control), (669, .lines 255)],
    memoriesCanonical (scanning x.1) ∧ (scanning x.1).ptu.mode = .scanning ∧ (scanning x.1).ptu.burst = some .scan
      ∧ (scanning x.1).ptu.waiting = [] ∧ scanBurstAt (scanning x.1).ptu.scanned = some x.2 := by
  intro x hx
  refine ⟨⟨rfl, rfl⟩, rfl, rfl, rfl, ?_⟩
  simp only [List.mem_cons, List.not_mem_nil, or_false] at hx
  rcases hx with rfl | rfl <;> decide

/-- A burst of every kind, the last of its kind; and lines as they are at the start of the scan. -/
theorem witness_ScanOwners :
    (∀ n, memoriesCanonical (scanning n) ∧ (scanning n).ptu.mode = .scanning ∧ (scanning n).ptu.burst = some .scan
      ∧ (scanning n).ptu.waiting = [])
    ∧ (∀ x ∈ [(0, ScanBurst.control), (16, .slot 15), (40, .zone 23), (44, .targets 3), (59, .tones 15), (61, .toneRepeats 1),
        (77, .clips 15), (141, .header 63), (397, .members 63 3), (413, .permissions 15), (669, .lines 255)],
      scanBurstAt (scanning x.1).ptu.scanned = some x.2)
    ∧ (∀ l : LineNo, ((scanning 669).lmon.shadows.get l).state = .busy) ∧ (scanning 669).lmon.idleOrder = [] :=
  ⟨fun _ => ⟨⟨rfl, rfl⟩, rfl, rfl, rfl⟩, by decide, by simp [scanning, State.reset, Lmon.initial, LineShadow.initial], rfl⟩

/-- The last scan burst on the port, with a refusal noted for slots 0 and 15 and some faults noted. -/
def scanEnding (restart : Option SlotNo) (noted : List NotedFault) : State :=
  { scanning 669 with
    ptu := { (scanning 669).ptu with restartSlot := restart }
    rqu := { Rqu.initial with slots := Vector.ofFn fun n =>
      { SlotRec.initial with noted := if n = 0 ∨ n = 15 then some ⟨1, 0, false⟩ else none } }
    ntu := { Ntu.initial with noted := noted } }

/-- AMON's and ZOS's faults of zones 0 and 23. -/
def zoneNotes : List NotedFault :=
  [⟨⟨.zone, .rise, 0⟩, 0⟩, ⟨⟨.zone, .gmax, 0⟩, 0⟩, ⟨⟨.zone, .window, 23⟩, 0⟩, ⟨⟨.zone, .ramp, 23⟩, 0⟩]

/-- After power-on and after a RESTART, with refusals and faults noted that the queue holds, and with more than it holds; a fault noted
already, and a new one between those of its place and those of a later place; the first and the last indices of the order. -/
theorem witness_ScanEnds :
    (∀ n ∈ [none, some 15], ∀ l ∈ [zoneNotes, List.replicate 30 ⟨⟨.zone, .rise, 0⟩, 0⟩],
      let s := scanEnding n l
      s.ptu.mode = .scanning ∧ s.ptu.burst = some .scan ∧ s.ptu.waiting = [] ∧ s.ptu.scanned = 669 ∧ s.ntu.queue = []
        ∧ s.ntu.drops ≤ 65535 ∧ s.ptu.restartSlot = n ∧ s.ntu.noted = l
        ∧ (List.finRange 16).filterMap (fun n => (s.rqu.slots.get n).noted.map fun x => Notice.reqRefused n x)
          = [.reqRefused 0 ⟨1, 0, false⟩, .reqRefused 15 ⟨1, 0, false⟩])
    ∧ (let s := scanEnding none zoneNotes;
      s.ptu.mode = .scanning ∧ ⟨⟨.zone, .gmax, 0⟩, 0⟩ ∈ s.ntu.noted ∧ ⟨⟨.zone, .fall, 23⟩, 0⟩ ∉ s.ntu.noted
        ∧ s.ntu.noted = zoneNotes.take 3 ++ zoneNotes.drop 3
        ∧ (∀ x ∈ zoneNotes.take 3, faultRank x.fault ≤ faultRank ⟨.zone, .fall, 23⟩)
        ∧ (∀ x ∈ zoneNotes.drop 3, faultRank ⟨.zone, .fall, 23⟩ < faultRank x.fault))
    ∧ ((22 : ZoneNo) < 23 ∧ (14 : PatternNo) < 15 ∧ (62 : ClipNo) < 63 ∧ (62 : GroupNo) < 63) := by
  refine ⟨fun n hn l hl => ?_, by decide +kernel, by decide⟩
  simp only [List.mem_cons, List.not_mem_nil, or_false] at hn hl
  rcases hn with rfl | rfl <;> rcases hl with rfl | rfl <;> decide +kernel

/-- Without a posting, and with one that is cut. -/
theorem witness_RestartClears :
    (let s := asked 0x0D ⟨0, 0, 0, 0⟩; Served 0x0D 3 s ∧ noPosting s ∧ s.ptu.waiting = [])
    ∧ (∀ c ∈ [Instr.restart, .resetPinFall],
        ∃ s t, memoriesCanonical s ∧ s.ptu.waiting = [] ∧ ¬ noPosting s ∧ exec c s = .next t) := by
  refine ⟨⟨served 0x0D _ _ rfl rfl, .inr rfl, rfl⟩, fun c _ =>
    ⟨{ noticed with ptu := { noticed.ptu with burst := some .posting }, rqu := slots 0x0D ⟨0, 0, 0, 0⟩ }, _, ⟨rfl, rfl⟩, rfl,
      ?_, exec_next _ _⟩⟩
  rintro (h | h)
  · exact h rfl
  · cases h

/-- Presentations of line 1023 with a fault noted: a BUSY line, one RINGING a reference nothing holds, one TALKING a reference nothing
holds, and one TALKING the reference of an earlier line's DIRECT record. -/
theorem witness_PresentationReports :
    (∀ x ∈ [(LineState.busy, []), (.ringing 9, []), (.talking 9, []), (.talking 9, [directCall 9 [1]])],
      let s := { tracking x.2 x.1 false with lmon := { (tracking x.2 x.1 false).lmon with
        presenting := 1023, noted := [(1023, ⟨.lineConfig, .pickupGroup, 1023⟩)] } }
      s.lmon.presenting = (1023 : LineNo).val ∧ s.lmon.noted ≠ [] ∧ (s.lmon.shadows.get 1023).state = x.1
        ∧ (s.lmon.shadows.get 1023).reservation = none ∧ ringingCall 1023 s = none ∧ findCall 9 s = x.2.head?
        ∧ parkedAs 9 s = none ∧ s.deng.calls.length < 128)
    ∧ (directCall 9 [1]).hunt = none ∧ (directCall 9 [1]).reservations = [] := by decide +kernel

/-- Presentations of line 1023 RINGING: with a full Call Table, with the reference parked, with the reference of a queued call, of a
ringing one and of one with 32 ringing lines, and with the line in the call's ringing set. -/
theorem witness_presentedRinging :
    let s := fun cs : List CallRecord => { tracking cs (.ringing 9) false with
      lmon := { (tracking cs (.ringing 9) false).lmon with presenting := 1023 } }
    let full := (List.range 128).map fun i => directCall (BitVec.ofNat 16 (i + 100)) [0]
    let parked := putPark 15 (some ⟨9, none, none, 0, none⟩) (s [])
    (∀ cs, (s cs).lmon.presenting = (1023 : LineNo).val ∧ ((s cs).lmon.shadows.get 1023).state = .ringing 9
      ∧ ((s cs).lmon.shadows.get 1023).reservation = none)
    ∧ (ringingCall 1023 (s full) = none ∧ findCall 9 (s full) = none ∧ parkedAs 9 (s full) = none
      ∧ ¬ (s full).deng.calls.length < 128)
    ∧ (ringingCall 1023 parked = none ∧ findCall 9 parked = none ∧ (parkedAs 9 parked).isSome = true
      ∧ (parked.lmon.shadows.get 1023).state = .ringing 9)
    ∧ (∀ c ∈ [huntCall .queued [] [], huntCall .ringing [⟨1, true⟩] [], directCall 9 ((List.finRange 1024).take 32)],
      findCall 9 (s [c]) = some c ∧ (∀ q ∈ (s [c]).deng.calls, q.ref = 9 → q = c) ∧ ringingCall 1023 (s [c]) = none
        ∧ FloorOff 63 (s [c]))
    ∧ findCall 9 (s [directCall 9 [1023]]) = some (directCall 9 [1023])
      ∧ ringingCall 1023 (s [directCall 9 [1023]]) = some (directCall 9 [1023]) := by
  refine ⟨fun cs => ⟨rfl, ?_, ?_⟩, by decide +kernel, by decide +kernel, fun c hc => ?_, by decide +kernel, by decide +kernel⟩
  · simp [tracking, withLine, modShadow, lineIn]
  · simp [tracking, withLine, modShadow, lineIn]
  · simp only [List.mem_cons, List.not_mem_nil, or_false] at hc
    rcases hc with rfl | rfl | rfl <;> exact ⟨by decide +kernel, by decide +kernel, by decide +kernel,
      floorOff _ _ (by decide +kernel) (by decide +kernel)⟩

/-- A write that changes the pair; and BUSY written again by the first and the last bad code and by RINGING and TALKING without a
reference. -/
theorem witness_LineStateWritten : InService ready ∧ ∀ d ∈ [(1 : Word), 5, 255, 2, 3],
    (ready.lmon.shadows.get 1023).state
      = (decodeLineState (copyOf (.lineState 1023) (writeTaken (.lineState 1023) d 0xF ready))).1 :=
  ⟨inService _ rfl (by decide +kernel), fun d hd => by
    simp only [List.mem_cons, List.not_mem_nil, or_false] at hd
    rcases hd with rfl | rfl | rfl | rfl | rfl <;> decide +kernel⟩

/-- With a free record, with none, parked; then an offer confirmed, a QUEUED call that a line rings unasked, one more line of a RINGING
call, and a full ringing set. -/
theorem witness_LineRings :
    (∀ s ∈ [ready, withCalls ((List.range 128).map fun i => directCall (BitVec.ofNat 16 (i + 100)) [0]) ready,
        putPark 15 (some ⟨9, none, none, 0, none⟩) ready],
      InService s ∧ (s.lmon.shadows.get 1023).state = .busy ∧ ringingCall 1023 s = none
        ∧ (s.lmon.shadows.get 1023).reservation = none ∧ findCall 9 s = none)
    ∧ (∀ x ∈ [(huntCall .offered [] [⟨1023, 0⟩], true), (huntCall .queued [] [], false),
        (huntCall .ringing [⟨1, true⟩] [⟨1023, 0⟩], true), (directCall 9 ((List.finRange 1024).take 32), false)],
      let s := tracking [x.1] .idle x.2
      InService s ∧ (s.lmon.shadows.get 1023).state ≠ .ringing 9 ∧ ringingCall 1023 s = none ∧ findCall 9 s = some x.1
        ∧ (∀ q ∈ s.deng.calls, q.ref = 9 → q = x.1)
        ∧ (s.lmon.shadows.get 1023).reservation = (if x.2 = true then some 9 else none)
        ∧ (∀ h, x.1.hunt = some h → x.1.state = .queued → FloorOff h.group s)) := by
  constructor
  · intro s hs
    simp only [List.mem_cons, List.not_mem_nil, or_false] at hs
    rcases hs with rfl | rfl | rfl <;> exact ⟨inService _ rfl (by decide +kernel), by decide +kernel⟩
  · intro x hx
    simp only [List.mem_cons, List.not_mem_nil, or_false] at hx
    rcases hx with rfl | rfl | rfl | rfl <;> refine ⟨inService _ rfl (by decide +kernel), by decide +kernel, by decide +kernel,
      by decide +kernel, by decide +kernel, by decide +kernel, fun h e _ => ?_⟩
    all_goals cases e
    all_goals exact floorOff _ _ (by decide +kernel) (by decide +kernel)

/-- An unknown reference; a HUNT call answered by a line that rang it, by one reserved for it, and by a third line; a DIRECT call. -/
theorem witness_LineAnswers :
    (InService ready ∧ (ready.lmon.shadows.get 1023).state = .busy ∧ findCall 9 ready = none
      ∧ (ready.lmon.shadows.get 1023).reservation = none ∧ ringingCall 1023 ready = none)
    ∧ (∀ x ∈ [(huntCall .ringing [⟨1023, true⟩, ⟨1, true⟩] [⟨5, 0⟩], LineState.ringing 9, false),
        (huntCall .offered [] [⟨5, 0⟩, ⟨1023, 0⟩], .idle, true), (huntCall .queued [] [], .busy, false),
        (directCall 9 [1023], .ringing 9, false)],
      let s := tracking [x.1] x.2.1 x.2.2
      InService s ∧ (s.lmon.shadows.get 1023).state ≠ .talking 9 ∧ findCall 9 s = some x.1 ∧ FreesAlone x.1 s
        ∧ (∀ q ∈ s.deng.calls, q.ref = 9 → q = x.1)
        ∧ (if x.2.2 = true then (s.lmon.shadows.get 1023).reservation = some 9 ∧ ∃ y ∈ x.1.reservations, y.line = 1023
          else (s.lmon.shadows.get 1023).reservation = none ∧ ∀ y ∈ x.1.reservations, y.line ≠ 1023)
        ∧ (ringingCall 1023 s = none ∨ ringingCall 1023 s = some x.1)) := by
  refine ⟨⟨inService _ rfl (by decide +kernel), by decide +kernel⟩, fun x hx => ?_⟩
  simp only [List.mem_cons, List.not_mem_nil, or_false] at hx
  rcases hx with rfl | rfl | rfl | rfl <;> refine ⟨inService _ rfl (by decide +kernel), by decide +kernel, by decide +kernel,
    ⟨.inr (alone _ _ (by decide +kernel)), fun h e => ?_⟩, by decide +kernel, by decide +kernel, by decide +kernel⟩
  all_goals cases e
  all_goals exact floorOff _ _ (by decide +kernel) (by decide +kernel)

/-- Group 63 has room for the call and no member it could offer. -/
def roomFor (s : State) : State :=
  { s with deng := { s.deng with groups := putAt s.deng.groups 63 (huntGroup .linear 5) } }

/-- The call of line 1023, ringing alone there by an offer, and a queued call of higher priority behind it. -/
def urgentWaits : State :=
  let s := tracking [huntCall .ringing [⟨1023, true⟩] [], ⟨7, .queued, [], [], some { part 63 with priority := 3 }⟩]
    (.ringing 9) false
  { s with deng := { s.deng with groups := putAt s.deng.groups 63 (huntGroup .linear 1023) } }

/-- R39, R41: the line a call lets go by going IDLE is offered to the queued call of higher priority, and the call queues. -/
theorem test_lineStateWrite_rehunt :
    let t := next (.lineStateWrite 1023 0 0xF) urgentWaits
    (t.lmon.shadows.get 1023).reservation = some 7 ∧ t.deng.calls.map (·.state) = [.queued, .offered] := by decide +kernel

/-- R13, R14: the reference a line rings next is looked up when the DIRECT call it leaves is free again. -/
theorem test_lineStateWrite_ringsNext :
    (next (.lineStateWrite 1023 0x80002 0xF) (tracking [directCall 9 [1023]] (.ringing 9) false)).deng.calls
      = [directCall 8 [1023]] := by decide +kernel

/-- The pairs a line leaves by; the reserved line leaves, with another ringing line and with none; a ringing line leaves another ringing
line, a DIRECT call, a reservation, and nothing; the references it may ring or talk with next: free, parked, of a call that waits, of one
with a full ringing set and of a DIRECT call; and the ringing line that goes IDLE while a call of higher priority waits. -/
theorem witness_LineLeaves :
    (decodeLineState 1 = (.busy, []) ∧ decodeLineState 0 = (.idle, []) ∧ decodeLineState 4 = (.outOfService, [])
      ∧ decodeLineState 2 = (.busy, [.reference]) ∧ decodeLineState 255 = (.busy, [.code])
      ∧ decodeLineState 0x80002 = (.ringing 8, []) ∧ decodeLineState 0x80003 = (.talking 8, []))
    ∧ (∀ x ∈ [(huntCall .ringing [⟨1, true⟩] [⟨1023, 0⟩], LineState.idle, true), (huntCall .offered [] [⟨1023, 0⟩], .idle, true),
        (huntCall .ringing [⟨1023, true⟩, ⟨1, true⟩] [], .ringing 9, false), (directCall 9 [1023], .ringing 9, false),
        (huntCall .ringing [⟨1023, true⟩] [⟨5, 0⟩], .ringing 9, false), (huntCall .ringing [⟨1023, true⟩] [], .ringing 9, false)],
      let s := roomFor (tracking [x.1] x.2.1 x.2.2)
      InService s ∧ s.deng.calls = [x.1] ∧ (s.lmon.shadows.get 1023).state = x.2.1
        ∧ (s.lmon.shadows.get 1023).reservation = (if x.2.2 = true then some 9 else none)
        ∧ ringingCall 1023 s = (if x.2.2 = true then none else some x.1) ∧ FloorOff 63 s ∧ CanOnlyQueue 63 s
        ∧ (x.1.hunt.all fun h => h.caller ≠ some 1023) = true ∧ (∀ n, s.deng.parks.get n = none)
        ∧ findCall 8 s = none ∧ parkedAs 8 s = none)
    ∧ (∀ y ∈ [⟨8, .queued, [], [], some (part 62)⟩, directCall 8 ((List.finRange 1024).take 32), directCall 8 [7]],
      let s := tracking [y] (.ringing 9) false
      findCall 8 s = some y ∧ (∀ e ∈ y.ringing, e.line ≠ 1023) ∧ y.reservations = [] ∧ FloorOff 62 s ∧ FreesAlone y s)
    ∧ (parkedAs 8 (putPark 15 (some ⟨8, none, none, 0, none⟩) ready)).isSome = true
    ∧ (let s := urgentWaits;
      InService s ∧ s.deng.calls = [] ++ huntCall .ringing [⟨1023, true⟩] [] ::
          [⟨7, .queued, [], [], some { part 63 with priority := 3 }⟩]
        ∧ FloorOff 63 s ∧ CanOnlyQueue 63 s ∧ (s.lmon.shadows.get 1023).state = .ringing 9
        ∧ (s.lmon.shadows.get 1023).reservation = none
        ∧ ringingCall 1023 s = some (huntCall .ringing [⟨1023, true⟩] []) ∧ (s.deng.groups.get 63).night = false
        ∧ isEffective (s.deng.groups.get 63) 31 = true ∧ ((s.deng.groups.get 63).members.get 31).line = 1023
        ∧ ((s.deng.groups.get 63).members.get 31).signedIn = true ∧ referencesSound s ∧ ∀ n, s.deng.parks.get n = none) := by
  refine ⟨by decide, fun x hx => ?_, fun y hy => ?_, by decide +kernel, inService _ rfl (by decide +kernel), rfl,
    floorOff _ _ (by decide +kernel) (by decide +kernel),
    canOnlyQueue _ _ (by decide +kernel) (by decide +kernel) (by decide +kernel), by decide +kernel, by decide +kernel,
    by decide +kernel, by decide +kernel, by decide +kernel, by decide +kernel, by decide +kernel,
    references _ (by decide +kernel), by decide +kernel⟩
  · simp only [List.mem_cons, List.not_mem_nil, or_false] at hx
    rcases hx with rfl | rfl | rfl | rfl | rfl | rfl <;> exact ⟨inService _ rfl (by decide +kernel), rfl, by decide +kernel,
      by decide +kernel, by decide +kernel, floorOff _ _ (by decide +kernel) (by decide +kernel),
      canOnlyQueue _ _ (by decide +kernel) (by decide +kernel) (by decide +kernel), by decide +kernel, by decide +kernel,
      by decide +kernel, by decide +kernel⟩
  · simp only [List.mem_cons, List.not_mem_nil, or_false] at hy
    rcases hy with rfl | rfl | rfl <;> refine ⟨by decide +kernel, by decide +kernel, rfl,
      floorOff _ _ (by decide +kernel) (by decide +kernel), .inl rfl, fun h e => ?_⟩
    all_goals cases e
    all_goals exact floorOff _ _ (by decide +kernel) (by decide +kernel)

/-- A call with ringing lines and a reservation whose caller also holds two parked calls. -/
theorem witness_CallerAbandons :
    let c : CallRecord := ⟨9, .ringing, [⟨1, true⟩, ⟨2, true⟩], [⟨5, 0⟩], some { part 63 with caller := some 1023 }⟩
    let s := putPark 0 (some ⟨8, none, some 1023, 0, none⟩) (putPark 15 (some ⟨7, none, some 1023, 0, none⟩)
      (tracking [directCall 6 [3], c] .busy false))
    InService s ∧ bits 0 0 8 = 0 ∧ (s.lmon.shadows.get 1023).state ≠ .idle ∧ (s.lmon.shadows.get 1023).reservation = none
      ∧ findCall 9 s = some c ∧ Alone 9 s ∧ FloorOff 63 s ∧ (∀ q ∈ s.deng.calls, q.ref ≠ 9 → ∀ e ∈ q.ringing, e.line ≠ 1023)
      ∧ (∀ n, ((s.deng.parks.get n).all fun k => k.held = some 1023 && k.page = none) = true) :=
  ⟨inService _ rfl (by decide +kernel), by decide, by decide +kernel, by decide +kernel, by decide +kernel,
    alone _ _ (by decide +kernel), floorOff _ _ (by decide +kernel) (by decide +kernel), by decide +kernel, by decide +kernel⟩

/-- Two queued calls of which the later has the higher priority; an offered ALL_RING call; and a line that goes IDLE. -/
theorem witness_ArbitrationGives :
    (let s := withCalls [queuedCall 8 63, ⟨9, .queued, [], [], some { part 63 with priority := 3 }⟩] (oneMember .circular);
      (s.deng.groups.get 63).night = false ∧ eligibleAt 63 31 s = true ∧ ((s.deng.groups.get 63).members.get 31).line = 1023
        ∧ callPriority (queuedCall 8 63) < callPriority ⟨9, .queued, [], [], some { part 63 with priority := 3 }⟩
        ∧ FloorOff 63 s)
    ∧ (let s := withCalls [huntCall .offered [] [⟨1, 0⟩]] (oneMember .allRing);
      (s.deng.groups.get 63).night = false ∧ eligibleAt 63 31 s = true ∧ ((s.deng.groups.get 63).members.get 31).line = 1023
        ∧ (s.deng.groups.get 63).config.mode = .allRing ∧ ∀ q ∈ s.deng.calls, q.state ≠ .queued)
    ∧ (InService ready ∧ ready.deng.calls = [] ∧ bits 0 0 8 = 0 ∧ (ready.lmon.shadows.get 1023).state ≠ .idle
      ∧ (ready.lmon.shadows.get 1023).reservation = none ∧ ringingCall 1023 ready = none ∧ ∀ n, ready.deng.parks.get n = none) :=
  ⟨⟨by decide +kernel, by decide +kernel, by decide +kernel, by decide, floorOff _ _ (by decide +kernel) (by decide +kernel)⟩,
    by decide +kernel, inService _ rfl (by decide +kernel), rfl, by decide, by decide +kernel⟩

/-- The first and the last pattern that has words. -/
theorem witness_TableWrites : InService ready ∧ (15 : PatternNo) ≠ 0 ∧ (1 : PatternNo) ≠ 0 :=
  ⟨inService _ rfl (by decide +kernel), by decide⟩

/-- A header of group 63 written with no call in its queue, with two calls and a capacity of one, and with one call, a capacity of 0 and
group 0 as overflow target, which queues it. -/
theorem witness_RecordWrites :
    InService ready
    ∧ (let s := withCalls [queuedCall 8 63, queuedCall 9 63] ready;
      let w := fun k : Fin 8 => copyOf (.header 63 k) (writeTaken (.header 63 0) 0x100 0xF s)
      let config := decodeHeader (w 0) (w 1) (w 2) (w 3)
      InService s ∧ FloorOff 63 s ∧ config.floorTarget = none ∧ config.capacity = 1 ∧ config.overflowTarget = none
        ∧ referencesSound s ∧ queueOf 63 s = [queuedCall 8 63, queuedCall 9 63])
    ∧ (let s := withCalls [queuedCall 9 63] { ready with deng := { Deng.initial with
          groups := modAt Deng.initial.groups 0 fun h => { h with config := { h.config with capacity := 1 } } } };
      let w := fun k : Fin 8 => copyOf (.header 63 k) (writeTaken (.header 63 2) 0x80 0xF s)
      let config := decodeHeader (w 0) (w 1) (w 2) (w 3)
      InService s ∧ FloorOff 63 s ∧ config.floorTarget = none ∧ config.capacity = ([] : List CallRecord).length
        ∧ config.overflowTarget = some 0 ∧ referencesSound s ∧ queueOf 63 s = [] ++ [queuedCall 9 63] ∧ (part 63).hops.val < 4
        ∧ FloorOff 0 s ∧ CanOnlyQueue 0 s) :=
  ⟨inService _ rfl (by decide +kernel),
    ⟨inService _ rfl (by decide +kernel), floorOff _ _ (by decide +kernel) (by decide +kernel), by decide +kernel,
      by decide +kernel, by decide +kernel, references _ (by decide +kernel), by decide +kernel⟩,
    inService _ rfl (by decide +kernel), floorOff _ _ (by decide +kernel) (by decide +kernel), by decide +kernel,
    by decide +kernel, by decide +kernel, references _ (by decide +kernel), by decide +kernel, by decide,
    floorOff _ _ (by decide +kernel) (by decide +kernel),
    canOnlyQueue _ _ (by decide +kernel) (by decide +kernel) (by decide +kernel)⟩

/-- Zone records written where no page reacts: a free LOUD zone with no page; a MIC_SILENT zone that a NORMAL page holds; and a zone being
let go whose GMAX is lowered to 1. -/
theorem witness_RecordWrites_zone :
    (let s := modAmon 23 (fun a => { a with window := .loud }) ready;
      InService s ∧ s.pctl.pageOrder = [] ∧ s.pctl.holders.get 23 = none ∧ ∀ p, s.pctl.pages.get p = none)
    ∧ (let s := modAmon 23 (fun a => { a with window := .micSilent }) (holding .active []);
      InService s ∧ (s.amon.get 23).window ≠ .loud ∧ s.pctl.holders.get 23 = some ⟨15, .normal, 0, false⟩
        ∧ ∀ p, ((s.pctl.pages.get p).all fun r => r.priority ≠ .background) = true)
    ∧ InService lettingGo ∧ lettingGo.pctl.holders.get 0 = some ⟨15, .normal, 0, true⟩
    ∧ (let u := writeTaken (.zone 0 1) 1 0xF lettingGo;
      min (lettingGo.zos.zones.get 0).ga (decodeGain (copyOf (.zone 0 0) u) (copyOf (.zone 0 1) u)).gmax ≠ 0) :=
  ⟨⟨inService _ rfl (by decide +kernel), by decide +kernel⟩, ⟨inService _ rfl (by decide +kernel), by decide +kernel⟩,
    inService _ rfl (by decide +kernel), by decide +kernel⟩

/-- The page of live channel 3 in a state, holding zone 23 with some samples. -/
def liveAt (st : PageState) (played : Bool) (n : Nat) : State :=
  let s := holding st (List.replicate n 0)
  { s with pctl := { s.pctl with pages := putAt s.pctl.pages 15 (some { livePageRec st with wasActive := played }) } }

/-- No page; a page that discards; a page that feeds a zone with room for two samples, for one and for none. -/
theorem witness_LiveWrites :
    (ready.ptu.mode = .ready ∧ PortFree ready ∧ ∀ p, ready.pctl.pages.get p = none)
    ∧ (∀ x ∈ [(PageState.pending, false, 0), (.preamble, false, 0), (.releasing, false, 0), (.active, true, 62),
        (.active, true, 63), (.releasing, true, 64)],
      let s := liveAt x.1 x.2.1 x.2.2
      s.ptu.mode = .ready ∧ PortFree s ∧ s.pctl.pages.get 15 = some { livePageRec x.1 with wasActive := x.2.1 }
        ∧ (∀ q, q ≠ 15 → s.pctl.pages.get q = none) ∧ 23 ∈ heldZones 15 s ∧ (s.zos.zones.get 23).fifo.length = x.2.2
        ∧ (∀ z, (s.zos.zones.get z).fifo.length ≤ 64) ∧ linkOn 23 s = true) := by
  refine ⟨⟨rfl, portReady, by decide +kernel⟩, fun x hx => ?_⟩
  simp only [List.mem_cons, List.not_mem_nil, or_false] at hx
  rcases hx with rfl | rfl | rfl | rfl | rfl | rfl <;>
    exact ⟨rfl, portFree _ rfl rfl (.inl (by decide +kernel)), by decide +kernel⟩

theorem witness_NoticeRaised :
    (∃ s : State, s.ptu.mode = .ready ∧ s.ntu.queue.length = 31 ∧ (s.ntu.producer - s.ntu.consumer).toNat = 254)
    ∧ (∃ s : State, s.ptu.mode = .ready ∧ s.ntu.queue.length = 32 ∧ s.ntu.drops = 65535)
    ∧ (∃ s : State, s.ptu.mode = .ready ∧ (s.ntu.producer - s.ntu.consumer).toNat = 255 ∧ s.ntu.drops ≤ 65535)
    ∧ State.reset.ptu.mode ≠ .ready :=
  ⟨⟨{ ready with ntu := { Ntu.initial with queue := List.replicate 31 ⟨.ready false 0, 0⟩, producer := 254 } }, rfl, rfl, rfl⟩,
    ⟨{ ready with ntu := { Ntu.initial with queue := List.replicate 32 ⟨.ready false 0, 0⟩, drops := 65535 } }, rfl, rfl, rfl⟩,
    ⟨{ ready with ntu := { Ntu.initial with producer := 255 } }, rfl, rfl, by decide⟩, by decide⟩

/-- An index that is taken with notices dropped, one that is not, and the holdoff reached. -/
theorem witness_ConsumerWritten :
    (let s := { ready with ntu := { Ntu.initial with producer := 2, drops := 65535 } };
      s.ptu.mode = .ready ∧ PortFree s ∧ s.ntu.drops ≤ 65535
        ∧ (s.ntu.producer - 0).toNat ≤ (s.ntu.producer - s.ntu.consumer).toNat
        ∧ ¬ (s.ntu.producer - 3).toNat ≤ (s.ntu.producer - s.ntu.consumer).toNat)
    ∧ (let s := { ready with ptu := { ready.ptu with plantTime := 5 }
                             ntu := { Ntu.initial with producer := 1, holdoff := 5 } };
      s.ptu.mode = .ready ∧ PortFree s ∧ s.ntu.holdoff ≠ 0 ∧ 0 < outstanding s.ntu
        ∧ s.ntu.holdoff ≤ (s.ptu.plantTime - s.ntu.postedAt.get s.ntu.consumer.toFin).toNat) :=
  ⟨⟨rfl, portFree _ rfl rfl (.inl (by decide +kernel)), by decide⟩,
    rfl, portFree _ rfl rfl (.inl (by decide +kernel)), by decide +kernel⟩

/-- Without dropped notices, with some, and with the ring one record short of its limit. -/
theorem witness_PostingCompletes :
    ∀ x ∈ [((0 : BitVec 8), 0), (0, 9), (254, 9)],
      let s := { noticed with
        ptu := { noticed.ptu with burst := some .posting }, ntu := { noticed.ntu with producer := x.1, drops := x.2 } }
      memoriesCanonical s ∧ s.ptu.mode = .ready ∧ s.ptu.waiting = [] ∧ s.ptu.burst = some .posting
        ∧ s.ntu.queue = [⟨.ready false 0, 0⟩] ∧ s.ntu.queue.length ≤ 32 :=
  fun _ _ => ⟨⟨rfl, rfl⟩, rfl, rfl, rfl, rfl, (by decide : 1 ≤ 32)⟩

/-- IDLE, BUSY and PARTIAL in service, and IDLE and PARTIAL during SCANNING when the last slot has been read. -/
theorem witness_CommandWritten :
    (InService ready ∧ (ready.rqu.slots.get 15).state ≠ .pending)
    ∧ (InService (asked 1 ⟨0, 0, 0, 0⟩) ∧ ((asked 1 ⟨0, 0, 0, 0⟩).rqu.slots.get 3).state = .pending)
    ∧ (0x7#4 ≠ fullWord ∧ PortFree (gap 17) ∧ (gap 17).ptu.mode = .scanning ∧ isRead (.cmd 15) (gap 17) = true
      ∧ memoriesCanonical (gap 17) ∧ ((gap 17).rqu.slots.get 15).state ≠ .pending) :=
  ⟨⟨inService _ rfl (by decide +kernel), by decide +kernel⟩, ⟨inService _ rfl (by decide +kernel), by decide +kernel⟩,
    by decide, portFree _ rfl rfl (.inl (by decide +kernel)), by decide, by decide, ⟨rfl, rfl⟩, by decide +kernel⟩

/-- The refusals of the call commands, each at a boundary of its range. -/
theorem witness_RefusalsChangeNothing :
    (Served 0 3 (asked 0 ⟨0, 0, 0, 0⟩) ∧ Served 0x0E 3 (asked 0x0E ⟨0, 0, 0, 0⟩))
    ∧ (Served 0x01 3 (asked 0x01 ⟨0x10000, 0, 0, 0⟩) ∧ bits 0x10000 0 16 = 0 ∧ 63 < bits 64 0 8 ∧ 1023 < bits 0x80000400 0 16)
    ∧ (let s := withCalls [queuedCall 9 0] (asked 0x01 ⟨9, 63, 0x800003FF, 0⟩);
      Served 0x01 3 s ∧ bits 9 0 16 ≠ 0 ∧ bits 63 0 8 ≤ 63 ∧ bits 0x800003FF 0 16 ≤ 1023
        ∧ refHeld (BitVec.ofNat 16 (bits 9 0 16)) s = true)
    ∧ (let s := withCalls (List.replicate 128 (queuedCall 9 0)) (asked 0x01 ⟨8, 63, 0, 0⟩);
      Served 0x01 3 s ∧ refHeld (BitVec.ofNat 16 (bits 8 0 16)) s = false ∧ 128 ≤ s.deng.calls.length)
    ∧ (∀ r ∈ [0, 8], Served 0x02 3 (asked 0x02 ⟨r, 0, 0, 0⟩)
      ∧ refHeld (BitVec.ofNat 16 (bits r 0 16)) (asked 0x02 ⟨r, 0, 0, 0⟩) = false)
    ∧ (Served 0x07 3 (asked 0x07 ⟨1024, 0, 0, 0⟩) ∧ 1023 < bits 1024 0 16
      ∧ Served 0x07 3 (asked 0x07 ⟨1023, 0, 0, 0⟩) ∧ bits 1023 0 16 = (1023 : LineNo).val
      ∧ ((asked 0x07 ⟨1023, 0, 0, 0⟩).lmon.shadows.get 1023).pickup = 0)
    ∧ (let s := withCalls [directCall 8 [5]] pickupRinging;
      Served 0x07 3 s ∧ (s.lmon.shadows.get 1023).pickup ≠ 0
        ∧ ∀ c ∈ s.deng.calls, ¬ RingsInReach 1023 c s ∧ ¬ QueuesInReach 1023 c s)
    ∧ (Served 0x08 3 (asked 0x08 ⟨1024, 0, 0, 0⟩) ∧ Served 0x08 3 (asked 0x08 ⟨0, 1024, 0, 0⟩) ∧ 1023 < bits 1024 0 16) := by
  refine ⟨⟨served 0 _ _ rfl rfl, served 0x0E _ _ rfl rfl⟩, ⟨served 1 _ _ rfl rfl, by decide⟩,
    ⟨served 1 _ _ rfl rfl, by decide, by decide, by decide, by decide +kernel⟩,
    ⟨served 1 _ _ rfl rfl, by decide +kernel, by decide +kernel⟩, fun r hr => ⟨served 2 _ _ rfl rfl, ?_⟩,
    ⟨served 7 _ _ rfl rfl, by decide, served 7 _ _ rfl rfl, by decide, by decide +kernel⟩,
    ⟨served 7 _ _ rfl rfl, by decide +kernel, fun c hc => ?_⟩, served 8 _ _ rfl rfl, served 8 _ _ rfl rfl, by decide⟩
  · simp only [List.mem_cons, List.not_mem_nil, or_false] at hr
    rcases hr with rfl | rfl <;> decide +kernel
  · obtain rfl := List.mem_singleton.1 hc
    exact ⟨mt (ringingCandidate_iff _ _ _).2 (by decide +kernel), mt (queuedCandidate_iff _ _ _).2 (by decide +kernel)⟩

/-- PARK's three refusals, a named slot and ANY, and RETRIEVE's. -/
theorem witness_parkRefusals :
    (∀ p ∈ [(⟨0, 0, 0, 0⟩ : Params), ⟨9, 0x8400, 0, 0⟩, ⟨9, 0x84000000, 0, 0⟩, ⟨9, 0, 16, 0⟩],
      Served 0x09 3 (asked 0x09 p) ∧ (bits p.p0 0 16 = 0 ∨ (p.p1.getLsbD 15 = true ∧ 1023 < bits p.p1 0 12)
        ∨ (p.p1.getLsbD 31 = true ∧ 1023 < bits p.p1 16 12) ∨ (15 < bits p.p2 0 8 ∧ bits p.p2 0 8 ≠ 0xFF)))
    ∧ (let s := withCalls [queuedCall 9 0] (asked 0x09 ⟨9, 0, 15, 0⟩);
      Served 0x09 3 s ∧ bits 9 0 16 ≠ 0 ∧ bits 15 0 8 ≤ 15 ∧ refHeld (BitVec.ofNat 16 (bits 9 0 16)) s = true)
    ∧ (let s := putPark 15 (some ⟨7, none, none, 0, none⟩) (asked 0x09 ⟨9, 0, 15, 0⟩);
      Served 0x09 3 s ∧ refHeld (BitVec.ofNat 16 (bits 9 0 16)) s = false
        ∧ ∀ k : ParkNo, bits 15 0 8 = k.val ∨ bits 15 0 8 = 0xFF → s.deng.parks.get k ≠ none)
    ∧ (let s := { asked 0x09 ⟨9, 0, 0xFF, 0⟩ with deng := { Deng.initial with
          parks := Vector.replicate 16 (some ⟨7, none, none, 0, none⟩) } };
      Served 0x09 3 s ∧ refHeld (BitVec.ofNat 16 (bits 9 0 16)) s = false
        ∧ ∀ k : ParkNo, bits 0xFF 0 8 = k.val ∨ bits 0xFF 0 8 = 0xFF → s.deng.parks.get k ≠ none)
    ∧ (Served 0x0A 3 (asked 0x0A ⟨1024, 0, 0, 0⟩) ∧ Served 0x0A 3 (asked 0x0A ⟨0, 16, 0, 0⟩) ∧ 1023 < bits 1024 0 16
      ∧ 15 < bits 16 0 8)
    ∧ (Served 0x0A 3 (asked 0x0A ⟨1023, 15, 0, 0⟩) ∧ bits 1023 0 16 ≤ 1023 ∧ bits 15 0 8 = (15 : ParkNo).val
      ∧ (asked 0x0A ⟨1023, 15, 0, 0⟩).deng.parks.get 15 = none) := by
  refine ⟨fun p hp => ⟨served 9 _ _ rfl rfl, ?_⟩, ⟨served 9 _ _ rfl rfl, by decide, by decide, by decide +kernel⟩,
    ⟨served 9 _ _ rfl rfl, by decide +kernel⟩, ⟨served 9 _ _ rfl rfl, by decide +kernel⟩,
    ⟨served 10 _ _ rfl rfl, served 10 _ _ rfl rfl, by decide⟩, served 10 _ _ rfl rfl, by decide, by decide, by decide +kernel⟩
  revert p
  decide

/-- PAGE_START refused by each condition of R93, and PAGE_END's refusals. -/
theorem witness_pageRefusals :
    (∀ x ∈ [((⟨31, 0, 0, 0⟩ : Params), pageStarting 1, ResultCode.badParam), (⟨32, 0x301, 0, 0⟩, pageStarting 1, .badParam),
        (⟨31, 0x401, 0, 0⟩, pageStarting 1, .badParam), (⟨31, 0x4002, 0, 0⟩, pageStarting 1, .badParam),
        (⟨31, 3, 0, 0⟩, pageStarting 1, .badParam), (⟨31, 0x1003, 0, 0⟩, pageStarting 1, .badParam),
        (⟨31, 0x301, 16, 0⟩, pageStarting 1, .badParam), (⟨31, 0x301, 0, 601⟩, pageStarting 1, .badParam),
        (⟨31, 0x301, 0, 0x3D0000⟩, pageStarting 1, .badParam), (⟨31, 0x3F02, 0, 0⟩, pageStarting 1, .badParam),
        (⟨31, 0x301, 0, 0⟩, { ready with pctl := { Pctl.initial with
          pages := Vector.replicate 16 (some (livePageRec .active)) } }, .noPageSlot),
        (⟨31, 0x301, 0, 0⟩, onePage .active, .sourceBusy), (⟨31, 0x301, 0, 0⟩, ready, .noZones)],
      let s := { x.2.1 with rqu := slots 0x0B x.1 }
      Served 0x0B 3 s ∧ pageRefusal (bits x.1.p0 0 8) (bits x.1.p1 0 2) (bits x.1.p1 8 8) (bits x.1.p2 0 8) (bits x.1.p3 0 16)
        (bits x.1.p3 16 8) s = some x.2.2)
    ∧ (Served 0x0C 3 (asked 0x0C ⟨16, 0, 0, 0⟩) ∧ 15 < bits 16 0 8)
    ∧ (Served 0x0C 3 (asked 0x0C ⟨15, 0, 0, 0⟩) ∧ bits 15 0 8 = (15 : PageNo).val
      ∧ (asked 0x0C ⟨15, 0, 0, 0⟩).pctl.pages.get 15 = none)
    ∧ (∀ x ∈ [{ livePageRec .active with origin := .group 63 }, { livePageRec .releasing with endCause := some .request }],
      let s := putPage 15 (some x) (asked 0x0C ⟨15, 0, 0, 0⟩)
      Served 0x0C 3 s ∧ s.pctl.pages.get 15 = some x)
    ∧ (livePageRec .releasing).origin = .request ∧ (livePageRec .releasing).state = .releasing := by
  refine ⟨fun x hx => ?_, ⟨served 12 _ _ rfl rfl, by decide⟩, ⟨served 12 _ _ rfl rfl, by decide, by decide +kernel⟩,
    fun x hx => ?_, rfl, rfl⟩ <;> simp only [List.mem_cons, List.not_mem_nil, or_false] at hx
  · rcases hx with rfl | rfl | rfl | rfl | rfl | rfl | rfl | rfl | rfl | rfl | rfl | rfl | rfl <;>
      exact ⟨served 11 _ _ rfl rfl, by decide +kernel⟩
  · rcases hx with rfl | rfl <;> exact ⟨served 12 _ _ rfl rfl, by decide +kernel⟩

/-- Each mode, with an eligible member that is untried or tried, and a group without one. -/
theorem witness_SelectionByMode :
    (∀ m ∈ [GroupMode.linear, .circular, .longestIdle, .allRing],
      idleOrderSound (oneMember m) ∧ ((oneMember m).deng.groups.get 63).config.mode = m
        ∧ (select [] 63 [] (oneMember m)).1 = [31] ∧ (select [] 63 [31] (oneMember m)).2 = true)
    ∧ idleOrderSound ready ∧ (select [] 63 [] ready).1 = [] := by
  have h : ∀ m, idleOrderSound (oneMember m) := by
    intro m
    refine ⟨by simp [oneMember], fun l => ?_⟩
    by_cases e : l = 1023 <;> simp [oneMember, withLine, modShadow, e, idleLine, ready, State.reset, Lmon.initial,
      LineShadow.initial]
  refine ⟨fun m hm => ⟨h m, ?_⟩, ?_, by decide +kernel⟩
  · simp only [List.mem_cons, List.not_mem_nil, or_false] at hm
    rcases hm with rfl | rfl | rfl | rfl <;> decide +kernel
  · simp [idleOrderSound, ready, State.reset, Lmon.initial, LineShadow.initial]

/-- In CIRCULAR mode and in ALL_RING, with the caller's line 1023 and none. -/
theorem witness_HuntOffers : ∀ m ∈ [GroupMode.circular, .allRing],
    let s := { oneMember m with rqu := slots 0x01 huntParams }
    Served 0x01 3 s ∧ (0xFFFF : CallRef) ≠ 0 ∧ bits 0x3003F 0 8 = (63 : GroupNo).val
      ∧ bits 0x800003FF 0 16 = (1023 : LineNo).val ∧ refHeld 0xFFFF s = false ∧ s.deng.calls.length < 128
      ∧ (s.deng.groups.get 63).night = false ∧ FloorOff 63 s ∧ (select [] 63 [] s).1 = 31 :: [] := by
  intro m hm
  refine ⟨served 1 _ _ rfl rfl, by decide, by decide, by decide, ?_⟩
  simp only [List.mem_cons, List.not_mem_nil, or_false] at hm
  rcases hm with rfl | rfl <;> exact ⟨by decide +kernel, by decide +kernel, by decide +kernel,
    floorOff _ _ (by decide +kernel) (by decide +kernel), by decide +kernel⟩

/-- In DAY with no eligible member and one place left, and in NIGHT; and a queued call behind another. -/
theorem witness_HuntQueues :
    (∀ s ∈ [huntQueued, huntNight], Served 0x01 3 s ∧ refHeld 0xFFFF s = false ∧ s.deng.calls.length < 128 ∧ FloorOff 63 s
      ∧ (queueOf 63 s).length + 1 = (s.deng.groups.get 63).config.capacity ∧ CanOnlyQueue 63 s)
    ∧ (let s := withCalls [queuedCall 8 63, queuedCall 9 63] ready;
      s.deng.calls = [queuedCall 8 63] ++ queuedCall 9 63 :: [] ∧ (∀ q ∈ [queuedCall 8 63] ++ [], q.ref ≠ 9)
        ∧ (queuedCall 9 63).state = .queued ∧ (queuedCall 9 63).hunt = some (part 63)) := by
  refine ⟨fun s hs => ?_, rfl, by decide, rfl, rfl⟩
  simp only [List.mem_cons, List.not_mem_nil, or_false] at hs
  rcases hs with rfl | rfl
  · exact ⟨served 1 _ _ rfl rfl, by decide +kernel, by decide +kernel, ⟨by decide +kernel, by decide +kernel⟩,
      by decide +kernel, by decide +kernel, by decide +kernel⟩
  · exact ⟨served 1 _ _ rfl rfl, by decide +kernel, by decide +kernel, ⟨by decide +kernel, by decide +kernel⟩,
      by decide +kernel, by decide +kernel, by decide +kernel⟩

/-- HUNT into group 63, NIGHT or without room, with an overflow target; group 0 has room for one call or for none. -/
def huntEnding (night : Bool) (target : Option GroupNo) (room : Nat) : State :=
  let group := fun (k : Nat) (t : Option GroupNo) => { HuntGroup.initial with
    night := night, config := { GroupConfig.initial with capacity := k, overflowTarget := t } }
  { ready with
    rqu := slots 0x01 huntParams
    deng := { Deng.initial with groups := putAt (putAt Deng.initial.groups 63 (group 0 target)) 0 (group room none) } }

theorem witness_HuntEnds :
    (∀ x ∈ [(false, none, 0), (true, none, 0), (false, some 0, 1), (false, some 0, 0), (true, some 63, 0)],
      let s := huntEnding x.1 x.2.1 x.2.2
      Served 0x01 3 s ∧ refHeld 0xFFFF s = false ∧ s.deng.calls.length < 128 ∧ FloorOff 63 s ∧ FloorOff 0 s
        ∧ (x.2.1 = none → TurnsAway 63 s) ∧ (∀ t, x.2.1 = some t → Overflows 63 t s)
        ∧ (s.deng.groups.get 63).night = x.1)
    ∧ CanOnlyQueue 0 (huntEnding false (some 0) 1) ∧ TurnsAway 0 (huntEnding false (some 0) 0) := by
  refine ⟨fun x hx => ?_, canOnlyQueue _ _ (by decide +kernel) (by decide +kernel) (by decide +kernel),
    fun _ => by decide +kernel, by decide +kernel, by decide +kernel⟩
  simp only [List.mem_cons, List.not_mem_nil, or_false] at hx
  rcases hx with rfl | rfl | rfl | rfl | rfl <;> refine ⟨served 1 _ _ rfl rfl, by decide +kernel, by decide +kernel,
    floorOff _ _ (by decide +kernel) (by decide +kernel), floorOff _ _ (by decide +kernel) (by decide +kernel),
    fun h => ?_, fun t h => ?_, by decide +kernel⟩
  all_goals cases h
  all_goals constructor
  all_goals decide +kernel

/-- A HUNT record with a reservation, a DIRECT record, and a parked reference; no group has a floor-ring target. -/
theorem witness_CancelFrees :
    (∀ c ∈ [⟨0xFFFF, .offered, [], [⟨1023, 0⟩], some (part 63)⟩, directCall 0xFFFF [1023]],
      let s := withCalls [c] (asked 0x02 ⟨0xFFFF, 0, 0, 0⟩)
      Served 0x02 3 s ∧ findCall 0xFFFF s = some c ∧ FreesAlone c s ∧ ∀ g, FloorOff g s)
    ∧ (let s := putPark 15 (some ⟨0xFFFF, none, none, 0, none⟩) (asked 0x02 ⟨0xFFFF, 0, 0, 0⟩);
      Served 0x02 3 s ∧ findCall 0xFFFF s = none ∧ parkedAs 0xFFFF s = some 15) := by
  have off : ∀ (c : CallRecord) (g : GroupNo), FloorOff g (withCalls [c] (asked 0x02 ⟨0xFFFF, 0, 0, 0⟩)) := by
    intro c g
    constructor <;> simp [withCalls, asked, ready, State.reset, Deng.initial, HuntGroup.initial, GroupConfig.initial]
  refine ⟨fun c hc => ⟨served 2 _ _ rfl rfl, ?_⟩, served 2 _ _ rfl rfl, by decide +kernel, by decide +kernel⟩
  simp only [List.mem_cons, List.not_mem_nil, or_false] at hc
  rcases hc with rfl | rfl <;>
    exact ⟨by decide +kernel, ⟨.inr (alone _ _ (by decide +kernel)), fun h _ => off _ _⟩, fun g => off _ _⟩

/-- SIGN_IN and SIGN_OUT of the last member of the last group, of a line that is no member, and of numbers out of range. -/
theorem witness_SignInAndOut : ∀ code ∈ [(0x03 : BitVec 8), 0x04],
    (∀ p : Params, Served code.toNat 3 { oneMember .linear with rqu := slots code p })
    ∧ bits 63 0 8 = (63 : GroupNo).val ∧ bits 1023 0 16 = (1023 : LineNo).val ∧ 63 < bits 64 0 8 ∧ 1023 < bits 1024 0 16
    ∧ isEffective ((oneMember .linear).deng.groups.get 63) 31 = true
    ∧ (((oneMember .linear).deng.groups.get 63).members.get 31).line = 1023
    ∧ ∀ i, isEffective ((oneMember .linear).deng.groups.get 63) i = true →
        (((oneMember .linear).deng.groups.get 63).members.get i).line ≠ 0 :=
  fun code _ => ⟨fun p => served code p _ rfl rfl, by decide, by decide, by decide, by decide, by decide +kernel,
    by decide +kernel, by decide +kernel⟩

theorem witness_ServiceStateSet : ∀ code ∈ [(0x05 : BitVec 8), 0x06],
    Served code.toNat 3 (asked code ⟨63, 0, 0, 0⟩) ∧ bits 63 0 8 = (63 : GroupNo).val
      ∧ Served code.toNat 3 (asked code ⟨64, 0, 0, 0⟩) ∧ 63 < bits 64 0 8 :=
  fun code _ => ⟨served code _ _ rfl rfl, by decide, served code _ _ rfl rfl, by decide⟩

theorem witness_PickupsClaim :
    (referencesSound pickupRinging ∧ referencesSound pickupQueued ∧ referencesSound pickupDirected)
    ∧ (Served 0x07 3 pickupRinging ∧ bits 1023 0 16 = (1023 : LineNo).val
      ∧ (pickupRinging.lmon.shadows.get 1023).pickup ≠ 0
      ∧ pickupRinging.deng.calls = [directCall 8 [5]] ++ directCall 9 [0] :: []
      ∧ (∀ b ∈ [directCall 8 [5]], ¬ RingsInReach 1023 b pickupRinging ∧ ¬ QueuesInReach 1023 b pickupRinging)
      ∧ RingsInReach 1023 (directCall 9 [0]) pickupRinging ∧ FreesAlone (directCall 9 [0]) pickupRinging)
    ∧ (Served 0x07 3 pickupQueued ∧ (pickupQueued.lmon.shadows.get 1023).pickup ≠ 0
      ∧ pickupQueued.deng.calls = [] ++ queuedCall 9 63 :: [] ∧ QueuesInReach 1023 (queuedCall 9 63) pickupQueued)
    ∧ (Served 0x08 3 pickupDirected ∧ ringingCall 0 pickupDirected = some (directCall 9 [0])
      ∧ ringingCall 1 pickupDirected = none) := by
  refine ⟨⟨references _ (by decide +kernel), references _ (by decide +kernel), references _ (by decide +kernel)⟩,
    ⟨served 7 _ _ rfl rfl, by decide +kernel, by decide +kernel, rfl, fun b hb => ?_,
      (ringingCandidate_iff _ _ _).1 (by decide +kernel), .inl rfl, fun h e => by cases e⟩,
    ⟨served 7 _ _ rfl rfl, by decide +kernel, rfl, (queuedCandidate_iff _ _ _).1 (by decide +kernel)⟩,
    served 8 _ _ rfl rfl, by decide +kernel, by decide +kernel⟩
  obtain rfl := List.mem_singleton.1 hb
  exact ⟨mt (ringingCandidate_iff _ _ _).2 (by decide +kernel), mt (queuedCandidate_iff _ _ _).2 (by decide +kernel)⟩

/-- A named slot without a page, ANY with a page that PCTL refuses, and ANY with one that PCTL makes. -/
theorem witness_ParkFills :
    (Served 0x09 3 (asked 0x09 ⟨0xFFFF, 0x83FF8000, 15, 0⟩) ∧ refHeld 0xFFFF (asked 0x09 ⟨0xFFFF, 0x83FF8000, 15, 0⟩) = false
      ∧ (asked 0x09 ⟨0xFFFF, 0x83FF8000, 15, 0⟩).deng.parks.get 15 = none ∧ bits 15 0 8 = (15 : ParkNo).val
      ∧ bits 0x83FF8000 0 12 = (0 : LineNo).val ∧ bits 0x83FF8000 16 12 = (1023 : LineNo).val)
    ∧ (let s := asked 0x09 ⟨0xFFFF, 0, 0x800000FF, 0⟩;
      Served 0x09 3 s ∧ bits 0x800000FF 0 8 = 0xFF ∧ (∀ j < (0 : ParkNo), s.deng.parks.get j ≠ none)
        ∧ pageRefusal (bits 0 0 8) 2 (bits 0 16 8) (bits 0 24 8) 0 0 s = some .badParam)
    ∧ (let s := { pageStarting 1 with rqu := slots 0x09 ⟨0xFFFF, 0, 0x800000FF, 0xF0F011F⟩ };
      Served 0x09 3 s ∧ pageRefusal (bits 0xF0F011F 0 8) 3 (bits 0xF0F011F 16 8) (bits 0xF0F011F 24 8) 0 0 s = none
        ∧ s.pctl.pages.get 0 = none) :=
  ⟨⟨served 9 _ _ rfl rfl, by decide +kernel⟩, ⟨served 9 _ _ rfl rfl, by decide, by decide +kernel, by decide +kernel⟩,
    served 9 _ _ rfl rfl, by decide +kernel, by decide +kernel⟩

/-- RETRIEVE by another line and by the held party, and the timer at its expiry. -/
theorem witness_ParkFreed :
    let s := putPark 15 (some ⟨9, none, some 1023, 0, some 15⟩) (asked 0x0A ⟨1022, 15, 0, 0⟩)
    s.deng.parks.get 15 = some ⟨9, none, some 1023, 0, some 15⟩ ∧ Served 0x0A 3 s ∧ bits 1022 0 16 = (1022 : LineNo).val
      ∧ bits 1023 0 16 = (1023 : LineNo).val ∧ bits 15 0 8 = (15 : ParkNo).val ∧ 0 ≤ s.ptu.clock :=
  ⟨by decide +kernel, served 10 _ _ rfl rfl, by decide, by decide, by decide, Nat.zero_le _⟩

theorem witness_ConfirmTimerExpires :
    let c : CallRecord := ⟨9, .ringing, [⟨1, true⟩], [⟨1023, 0⟩], some (part 63)⟩
    (windowOut.lmon.shadows.get 1023).reservation = some c.ref ∧ findCall c.ref windowOut = some c ∧ c.hunt = some (part 63)
      ∧ ⟨1023, 0⟩ ∈ c.reservations ∧ 0 ≤ windowOut.ptu.clock ∧ c.state = .ringing ∧ c.ringing ≠ []
      ∧ (windowOut.deng.groups.get 63).config.mode ≠ .allRing
      ∧ (∀ d ∈ windowOut.deng.calls, d.ref ≠ c.ref → d.hunt = none)
      ∧ ∀ d ∈ windowOut.deng.calls, d.ref = c.ref → d = c := by decide +kernel

/-- Call 9 OFFERED to line 1023 alone, with its offer's window run out; its group has a capacity and an overflow target, and line 1023
at position 31, signed in or not. Group 0 has room for one call. -/
def lapsing (signedIn : Bool) (capacity : Nat) (target : Option GroupNo) (hops : Fin 5) : State :=
  let s := oneMember .circular
  withLine 1023 { idleLine with reservation := some 9 } { s with deng := { s.deng with
    calls := [⟨9, .offered, [], [⟨1023, 0⟩], some { part 63 with hops := hops }⟩]
    groups := (putAt (putAt s.deng.groups 63 { huntGroup .circular 1023 with
        config := { GroupConfig.initial with mode := .circular, capacity := capacity, overflowTarget := target }
        members := (putAt HuntGroup.initial.members 31 ⟨1023, true, true, signedIn, 0⟩) })
      0 { HuntGroup.initial with config := { GroupConfig.initial with capacity := 1 } }) } }

/-- The call's HUNT fields once its offer has lapsed. -/
def lapsedPart (hops : Fin 5) : HuntPart := { part 63 with hops := hops, tried := [31] }

/-- The state the re-hunt of ConfirmTimerExpires starts from: the offer lapsed, its line arbitrated. -/
def rehunting (signedIn : Bool) (capacity : Nat) (target : Option GroupNo) (hops : Fin 5) : State :=
  let s := lapsing signedIn capacity target hops
  arbitrate 1023 (raiseNotice (.offerLapsed 63 .window 9 1023)
    { modShadow 1023 (fun x => { x with reservation := none }) s with
      deng := { s.deng with calls := replaced 9 ⟨9, .offered, [], [], some (lapsedPart hops)⟩ s } })

/-- The last offer lapses where the call is offered again, queues, is turned away, and overflows at three hops and at four. -/
theorem witness_ConfirmTimerExpires_rehunt :
    (∀ x ∈ [(true, 16, none, (0 : Fin 5)), (false, 1, none, 0), (false, 0, none, 0), (false, 0, some 0, 3), (false, 0, some 0, 4)],
      let s := lapsing x.1 x.2.1 x.2.2.1 x.2.2.2
      let h : HuntPart := { part 63 with hops := x.2.2.2 }
      let c : CallRecord := ⟨9, .offered, [], [⟨1023, 0⟩], some h⟩
      (s.lmon.shadows.get 1023).reservation = some 9 ∧ findCall 9 s = some c ∧ 0 ≤ s.ptu.clock ∧ (∀ d ∈ s.deng.calls, d.ref = 9 → d = c)
        ∧ posOf (s.deng.groups.get 63) 1023 = some 31 ∧ FloorOff 63 (rehunting x.1 x.2.1 x.2.2.1 x.2.2.2))
    ∧ ((rehunting true 16 none 0).deng.groups.get 63).night = false
    ∧ select [] 63 (lapsedPart 0).tried (rehunting true 16 none 0) = ([31], true)
    ∧ CanOnlyQueue 63 (rehunting false 1 none 0) ∧ TurnsAway 63 (rehunting false 0 none 0)
    ∧ (∀ hops ∈ [(3 : Fin 5), 4], let s := rehunting false 0 (some 0) hops;
      Overflows 63 0 s ∧ FloorOff 0 s ∧ CanOnlyQueue 0 s
        ∧ ∀ d ∈ s.deng.calls, d.ref = 9 → d = ⟨9, .offered, [], [], some (lapsedPart hops)⟩) := by
  refine ⟨fun x hx => ?_, by decide +kernel, by decide +kernel,
    canOnlyQueue _ _ (by decide +kernel) (by decide +kernel) (by decide +kernel),
    ⟨fun _ => by decide +kernel, by decide +kernel, by decide +kernel⟩, fun hops hh => ?_⟩
  · simp only [List.mem_cons, List.not_mem_nil, or_false] at hx
    rcases hx with rfl | rfl | rfl | rfl | rfl <;> exact ⟨by decide +kernel, by decide +kernel, by decide +kernel, by decide +kernel,
      by decide +kernel, floorOff _ _ (by decide +kernel) (by decide +kernel)⟩
  · simp only [List.mem_cons, List.not_mem_nil, or_false] at hh
    rcases hh with rfl | rfl <;> exact ⟨⟨by decide +kernel, fun _ => ⟨by decide +kernel, by decide +kernel⟩⟩,
      floorOff _ _ (by decide +kernel) (by decide +kernel),
      canOnlyQueue _ _ (by decide +kernel) (by decide +kernel) (by decide +kernel), by decide +kernel⟩

/-- The offer that lapsed last goes to the same line again, tried positions cleared, when no other is eligible (R27, R31, R32). -/
theorem test_confirmTimerExpiry_rehunt :
    (findCall 9 (next (.confirmTimerExpiry 1023) (lapsing true 16 none 0))).map (fun c => (c.state, c.reservations))
      = some (.offered, [⟨1023, 2000⟩]) := by decide +kernel

/-- In ALL_RING, and outside it without and with a reservation of a line that is no member. -/
theorem witness_NoAnswerExpires :
    (((unanswered .allRing).deng.groups.get 63).config.overflowTarget = none
      ∧ findCall 9 (unanswered .allRing) = some (ringingCall9 [])
      ∧ ((unanswered .allRing).deng.groups.get 63).config.mode = .allRing)
    ∧ (∀ rs ∈ [[], [⟨2, 0⟩]],
      let s := withCalls [ringingCall9 rs] (unanswered .linear)
      findCall 9 s = some (ringingCall9 rs) ∧ (s.deng.groups.get 63).config.mode ≠ .allRing ∧ FloorOff 63 s
        ∧ CanOnlyQueue 63 s ∧ ((ringingCall9 rs).ringing.map (·.line)).Nodup ∧ Alone 9 s
        ∧ ∀ x ∈ (ringingCall9 rs).reservations, posOf (s.deng.groups.get 63) x.line = none) := by
  refine ⟨by decide +kernel, fun rs hr => ?_⟩
  simp only [List.mem_cons, List.not_mem_nil, or_false] at hr
  rcases hr with rfl | rfl <;> exact ⟨by decide +kernel, by decide +kernel,
    floorOff _ _ (by decide +kernel) (by decide +kernel),
    canOnlyQueue _ _ (by decide +kernel) (by decide +kernel) (by decide +kernel), by decide,
    alone _ _ (by decide +kernel), by decide +kernel⟩

/-- In ALL_RING with group 0 as overflow target, which has room for one call, at three hops and at four. -/
theorem witness_NoAnswerExpires_overflow : ∀ hops ∈ [(3 : Fin 5), 4],
    let h : HuntPart := { part 63 with hops := hops, noAnswerAt := some 0 }
    let c : CallRecord := ⟨9, .ringing, [⟨1023, true⟩], [⟨2, 0⟩], some h⟩
    let s := { unanswered .allRing with deng := { (unanswered .allRing).deng with
      calls := [c]
      groups := (putAt (modAt (unanswered .allRing).deng.groups 63 fun g =>
          { g with config := { g.config with overflowTarget := some 0 } })
        0 { HuntGroup.initial with config := { GroupConfig.initial with capacity := 1 } }) } }
    findCall 9 s = some c ∧ (s.deng.groups.get 63).config.mode = .allRing
      ∧ (s.deng.groups.get 63).config.overflowTarget = some 0 ∧ (∀ d ∈ s.deng.calls, d.ref = 9 → d = c)
      ∧ (∀ x ∈ c.reservations, posOf (s.deng.groups.get 0) x.line = none)
      ∧ FloorOff 63 s ∧ FloorOff 0 s ∧ CanOnlyQueue 0 s ∧ Alone 9 s := by
  intro hops hh
  simp only [List.mem_cons, List.not_mem_nil, or_false] at hh
  rcases hh with rfl | rfl <;> exact ⟨by decide +kernel, by decide +kernel, by decide +kernel, by decide +kernel, by decide +kernel,
    floorOff _ _ (by decide +kernel) (by decide +kernel), floorOff _ _ (by decide +kernel) (by decide +kernel),
    canOnlyQueue _ _ (by decide +kernel) (by decide +kernel) (by decide +kernel), alone _ _ (by decide +kernel)⟩

/-- At three hops and at four, RINGING with a reservation of a line that is no member of the target; without a target; and the
floor delay. -/
theorem witness_CallTimersExpire :
    (∀ hops ∈ [(3 : Fin 5), 4],
      let h : HuntPart := { part 0 with hops := hops, overflowAt := some 0 }
      let c : CallRecord := ⟨9, .ringing, [⟨1, true⟩], [⟨2, 0⟩], some h⟩
      let s := withCalls [c] (timersOut (some 63))
      findCall 9 s = some c ∧ (s.deng.groups.get 0).config.overflowTarget = some 63 ∧ FloorOff 0 s ∧ FloorOff 63 s
        ∧ CanOnlyQueue 63 s ∧ (∀ d ∈ s.deng.calls, d.ref = 9 → d = c) ∧ Alone 9 s
        ∧ ∀ x ∈ c.reservations, posOf (s.deng.groups.get 63) x.line = none)
    ∧ (let h : HuntPart := { part 0 with hops := 3, overflowAt := some 0, floorAt := some 0 };
      findCall 9 (timersOut none) = some ⟨9, .queued, [], [], some h⟩
        ∧ ((timersOut none).deng.groups.get 0).config.overflowTarget = none ∧ h.floorAt = some 0) := by
  refine ⟨fun hops hh => ?_, by decide +kernel⟩
  simp only [List.mem_cons, List.not_mem_nil, or_false] at hh
  rcases hh with rfl | rfl <;> exact ⟨by decide +kernel, by decide +kernel,
    floorOff _ _ (by decide +kernel) (by decide +kernel), floorOff _ _ (by decide +kernel) (by decide +kernel),
    canOnlyQueue _ _ (by decide +kernel) (by decide +kernel) (by decide +kernel), by decide +kernel,
    alone _ _ (by decide +kernel), by decide +kernel⟩

/-- PAGE_START of a source in target 31 behind page 0, which holds zone 23 at NORMAL. -/
def pagePreempting (source preamble : Word) (priority : Word) : State :=
  let s := pageStarting priority
  { s with
    rqu := slots 0x0B ⟨31 + 256 * priority, source, preamble, 600 + 65536 * 60⟩
    pctl := { s.pctl with
      pages := putAt s.pctl.pages 0 (some { livePageRec .active with source := .live 2, wanted := [23], target := 30 })
      pageOrder := [0], holders := putAt s.pctl.holders 23 (some ⟨0, .normal, 0, false⟩) }
    ctp := { s.ctp with
      patterns := putAt s.ctp.patterns 15 (twoSteps ⟨0, 0, 0⟩ 1), directory := putAt s.ctp.directory 63 ⟨0, 1, 1, 0⟩ } }

/-- A live channel without a page in use, at each priority; then behind a page: a live channel, a clip and a tone, without and with a
preamble, BACKGROUND to EMERGENCY. -/
theorem witness_PageStarts :
    (∀ priority ∈ [(1 : Word), 2, 3],
      let s := pageStarting priority
      Served 0x0B 3 s ∧ Settled s ∧ s.pctl.pages.get 0 = none ∧ bits (31 + 256 * priority + 4096) 0 8 = (31 : TargetNo).val
        ∧ bits (31 + 256 * priority + 4096) 8 2 = priority.toNat ∧ bits 0x301 0 2 = 1 ∧ bits 0x301 8 8 = (3 : LiveNo).val)
    ∧ (∀ x ∈ [((0x301 : Word), (0 : Word), (0 : Word)), (0x3F02, 15, 2), (0xF03, 15, 3)],
      let s := pagePreempting x.1 x.2.1 x.2.2
      Served 0x0B 3 s ∧ Settled s ∧ s.pctl.pages.get 1 = none ∧ (∀ q < (1 : PageNo), s.pctl.pages.get q ≠ none)
        ∧ (∀ q, ((s.pctl.pages.get q).all fun r => r.source ≠ .live 3) = true) ∧ (s.ctp.directory.get 63).blocks ≠ 0
        ∧ ((s.ctp.patterns.get 15).steps.get 0).duration ≠ 0 ∧ (s.pctl.targets.get 31).getLsbD 23 = true
        ∧ s.pctl.enabled.get 23 = true)
    ∧ (bits 0x3F02 0 2 = 2 ∧ bits 0x3F02 8 8 = (63 : ClipNo).val ∧ bits 0xF03 0 2 = 3 ∧ bits 0xF03 8 8 = (15 : PatternNo).val
      ∧ bits 15 0 8 = (15 : PatternNo).val ∧ bits (600 + 65536 * 60) 0 16 ≤ 600 ∧ bits (600 + 65536 * 60) 16 8 ≤ 60) := by
  refine ⟨fun x hx => ?_, fun x hx => ?_, by decide⟩ <;> simp only [List.mem_cons, List.not_mem_nil, or_false] at hx
  · rcases hx with rfl | rfl | rfl <;> exact ⟨served 11 _ _ rfl rfl,
      settled _ (by decide +kernel) (by decide +kernel) (by decide +kernel), by decide +kernel⟩
  · rcases hx with rfl | rfl | rfl <;> exact ⟨served 11 _ _ rfl rfl,
      settled _ (by decide +kernel) (by decide +kernel) (by decide +kernel), by decide +kernel⟩

/-- A page without zones, PENDING and ACTIVE with both timers out, and one that holds zone 23; ended by PAGE_END as well. -/
theorem witness_PageEnds :
    (∀ st ∈ [PageState.pending, .active],
      let s := { onePage st with rqu := slots 0x0C ⟨15, 0, 0, 0⟩ }
      s.pctl.pages.get 15 = some (livePageRec st) ∧ heldZones 15 s = [] ∧ s.pctl.waitList = [] ∧ Served 0x0C 3 s
        ∧ (livePageRec st).waitAt = some 0 ∧ (livePageRec st).maxAt = some 0)
    ∧ (let s := { holding .active [5, 6] with rqu := slots 0x0C ⟨15, 0, 0, 0⟩ };
      EndsHolding 15 (livePageRec .active) s ∧ Served 0x0C 3 s ∧ bits 15 0 8 = (15 : PageNo).val
        ∧ (livePageRec .active).origin = .request ∧ (livePageRec .active).maxAt = some 0) :=
  ⟨fun st hs => by
      simp only [List.mem_cons, List.not_mem_nil, or_false] at hs
      rcases hs with rfl | rfl <;>
        exact ⟨by decide +kernel, by decide +kernel, rfl, served 12 _ _ rfl rfl, rfl, rfl⟩,
    endsHolding _ _ (by decide +kernel) rfl (by decide +kernel) (by decide +kernel) rfl, served 12 _ _ rfl rfl, by decide, rfl, rfl⟩

/-- The page that loses zones. -/
def losingRec : PageRec := { livePageRec .active with wanted := [23], priority := .background }

/-- Page 15 holds zone 23, which it wants, and zone 22, which it is letting go; the copies and the fields of zone 23's record have no
fault, and its block is complete at a high estimate. -/
def losing : State :=
  let zone := fun (ga gt : Nat) (ramp : Option Nat) (v : Sample) => ZosZone.mk ⟨96, 0, 0, 0, 1⟩ gt ga ramp [v]
  { ready with
    ptu := { ready.ptu with copies := [(0x36E0, 3), (0x36E1, 1), (0x36E4, 96), (0x36E9, 0x48), (0x36EA, 0x42), (0x36EC, 1),
      (0x36ED, 1)] }
    pctl := { Pctl.initial with
      pages := putAt Pctl.initial.pages 15 (some losingRec), pageOrder := [15]
      targets := putAt Pctl.initial.targets 0 0x800000
      enabled := putAt (putAt Pctl.initial.enabled 22 true) 23 true
      holders := putAt (putAt Pctl.initial.holders 23 (some ⟨15, .background, 0, false⟩)) 22
        (some ⟨15, .background, 0, true⟩) }
    amon := putAt State.reset.amon 23 { AmonZone.initial with
      fields := ⟨true, 0, 1, 1, 0, 72, 66, 0, 0, 0⟩, blockCount := 1000, ne := 1904 }
    zos := { Zos.initial with zones := putAt (putAt Zos.initial.zones 23 (zone 96 96 none 5)) 22 (zone 96 0 (some 9) 7) } }

/-- The record's words after the write that disables zone 23. -/
def disabledWord (i : Fin 8) : Word := copyOf (.zone 23 i) (writeTaken (.zone 23 0) 0x102 0xF losing)

theorem witness_ZonesLost :
    (losing.ptu.mode = .ready ∧ PortFree losing ∧ losing.pctl.pages.get 15 = some losingRec ∧ losing.pctl.pageOrder = [15]
      ∧ losingRec.wanted = wantedOf losingRec losing ∧ (∀ z ∈ losingRec.wanted, z ∈ heldZones 15 losing)
      ∧ (∀ z, ((losing.pctl.holders.get z).all fun h =>
          h.priority = losingRec.priority && h.lettingGo == decide (z ∉ losingRec.wanted)) = true)
      ∧ ∀ z ∈ heldZones 15 losing, (losing.zos.zones.get z).ga ≠ 0)
    ∧ (losing.pctl.enabled.get 23 = true ∧ (losing.amon.get 23).window = .normal ∧ (disabledWord 0).getLsbD 0 = false
      ∧ decodeAmon (disabledWord 0) (disabledWord 2) (disabledWord 3) = (losing.amon.get 23).fields
      ∧ decodeGain (disabledWord 0) (disabledWord 1) = (losing.zos.zones.get 23).gain
      ∧ amonFaults (disabledWord 2) (disabledWord 3) = [] ∧ gainFaults (disabledWord 0) (disabledWord 1) = [])
    ∧ (BlockApplies (losing.amon.get 23) losing ∧ (afterBlock (losing.amon.get 23)).window = .loud
      ∧ ∀ y : ZoneNo, y ≠ 23 → (losing.amon.get y).blockCount < 1000)
    ∧ (∀ z : ZoneNo, ((copyOf (.target 0) (writeTaken (.target 0) 0xC00000 0xF losing)).extractLsb' 0 24).getLsbD z.val
        && losing.pctl.enabled.get z → z ∈ heldZones 15 losing) :=
  ⟨⟨rfl, portFree _ rfl rfl (.inl (by decide +kernel)), by decide +kernel⟩, by decide +kernel,
    ⟨⟨by decide +kernel, by decide +kernel, by decide +kernel, rfl⟩, by decide +kernel, by decide +kernel⟩, by decide +kernel⟩

/-- Group 63 with floor-ring target 31, which names zone 23; its floor condition as given; call 9 in it with its floor delay out. -/
def floorRinging (condition : Bool) (calls : List CallRecord) : State :=
  { ready with
    rqu := slots 0x02 ⟨9, 0, 0, 0⟩
    pctl := { Pctl.initial with
      targets := putAt Pctl.initial.targets 31 0x800000, enabled := putAt Pctl.initial.enabled 23 true }
    deng := { Deng.initial with
      calls := calls
      groups := putAt Deng.initial.groups 63 { HuntGroup.initial with
        floorCondition := condition, config := { GroupConfig.initial with floorTarget := some 31 } } } }

/-- Call 9 of group 63, queued, its floor delay out. -/
def floorCall : CallRecord := ⟨9, .queued, [], [], some { part 63 with floorAt := some 0 }⟩

/-- Every page record in use, page 15 empty, ACTIVE and of a request, and groups 62 and 63 wait for a record; page 3 is
group 62's. -/
def allPages : State :=
  let s := floorRinging true []
  { s with
    rqu := slots 0x0C ⟨15, 0, 0, 0⟩
    pctl := { s.pctl with
      enabled := Pctl.initial.enabled
      pages := Vector.ofFn fun p => some { livePageRec .active with origin := if p = 3 then .group 62 else .request }
      pageOrder := List.finRange 16, waitList := [62, 63] } }

theorem noPages (s : State) (h : s.pctl.pages = Pctl.initial.pages) (ho : s.pctl.pageOrder = [])
    (hh : s.pctl.holders = Pctl.initial.holders) (hw : s.pctl.waitList = []) : NoPages s :=
  ⟨by simp [h, Pctl.initial], ho, by simp [hh, Pctl.initial], hw⟩

/-- Group 63 with a command waiting, its calls, floor condition and service state as given, a threshold of 2 and room for two calls. -/
def floorAsked (code : BitVec 8) (p : Params) (condition night : Bool) (calls : List CallRecord) : State :=
  let s := floorRinging condition calls
  { s with
    rqu := slots code p
    deng := { s.deng with groups := modAt s.deng.groups 63 fun h =>
      { h with night := night, config := { h.config with alarm := 2, capacity := 2 } } } }

theorem floorNot (g : GroupNo) (cs : List CallRecord) (k : HuntGroup) (hf : ∀ c ∈ cs, ∀ h, c.hunt = some h → h.floorFlag = false)
    (hq : (cs.filter fun c => c.state = .queued && c.hunt.any fun h => h.group = g).length < k.config.alarm)
    (hn : k.night = false) : ¬ FloorHolds g cs k := by
  rintro ⟨-, ⟨c, hc, h, e, -, f⟩ | ⟨-, a⟩ | ⟨n, -⟩⟩
  · simp [hf c hc h e] at f
  · omega
  · simp [hn] at n

/-- R46: the second queued call reaches the threshold and a SET_DAY ends what NIGHT alone made true. -/
theorem test_floorCondition :
    ((next .hunt (floorAsked 0x01 huntParams false false [queuedCall 7 63])).deng.groups.get 63).floorCondition = true
    ∧ ((next .setDay (floorAsked 0x06 ⟨63, 0, 0, 0⟩ true true [queuedCall 7 63])).deng.groups.get 63).floorCondition = false := by
  decide +kernel

/-- SET_NIGHT with a call in the group; a HUNT whose call brings the queue to the threshold; SET_DAY with a call in the group; and a
CANCEL that leaves one call fewer than the threshold. -/
theorem witness_FloorPages_condition :
    (let s := floorAsked 0x05 ⟨63, 0, 0, 0⟩ false false [queuedCall 7 63];
      Served 0x05 3 s ∧ bits 63 0 8 = (63 : GroupNo).val ∧ (s.deng.groups.get 63).night = false ∧ s.deng.calls = [queuedCall 7 63]
        ∧ (s.deng.groups.get 63).floorCondition = false ∧ NoPages s)
    ∧ (let s := floorAsked 0x01 huntParams false false [queuedCall 7 63];
      Served 0x01 3 s ∧ refHeld 0xFFFF s = false ∧ s.deng.calls.length < 128 ∧ CanOnlyQueue 63 s
        ∧ (s.deng.groups.get 63).config.alarm = (queueOf 63 s).length + 1 ∧ (s.deng.groups.get 63).floorCondition = false
        ∧ NoPages s)
    ∧ (let s := floorAsked 0x06 ⟨63, 0, 0, 0⟩ true true [queuedCall 7 63];
      Served 0x06 3 s ∧ (s.deng.groups.get 63).night = true ∧ (∀ i, eligibleAt 63 i s = false)
        ∧ (s.deng.groups.get 63).floorCondition = true
        ∧ ¬ FloorHolds 63 s.deng.calls { s.deng.groups.get 63 with night := false })
    ∧ (let s := floorAsked 0x02 ⟨9, 0, 0, 0⟩ true false [queuedCall 7 63, queuedCall 9 63];
      Served 0x02 3 s ∧ findCall 9 s = some (queuedCall 9 63) ∧ (s.deng.groups.get 63).floorCondition = true
        ∧ ¬ FloorHolds 63 (s.deng.calls.filter (·.ref ≠ 9)) (s.deng.groups.get 63)) := by
  have flag : ∀ c ∈ [queuedCall 7 63], ∀ h, c.hunt = some h → h.floorFlag = false := by
    intro c hc h e
    simp only [List.mem_singleton] at hc
    subst hc
    cases e
    rfl
  refine ⟨⟨served 5 _ _ rfl rfl, by decide, by decide +kernel, rfl, by decide +kernel, noPages _ rfl rfl rfl rfl⟩,
    ⟨served 1 _ _ rfl rfl, by decide +kernel, by decide +kernel,
      canOnlyQueue _ _ (by decide +kernel) (by decide +kernel) (by decide +kernel), by decide +kernel, by decide +kernel,
      noPages _ rfl rfl rfl rfl⟩,
    ⟨served 6 _ _ rfl rfl, by decide +kernel, by decide +kernel, by decide +kernel, floorNot _ _ _ flag (by decide +kernel) rfl⟩,
    served 2 _ _ rfl rfl, by decide +kernel, by decide +kernel, ?_⟩
  have e : (floorAsked 0x02 ⟨9, 0, 0, 0⟩ true false [queuedCall 7 63, queuedCall 9 63]).deng.calls.filter (·.ref ≠ 9)
      = [queuedCall 7 63] := by decide +kernel
  exact e ▸ floorNot _ _ _ flag (by decide +kernel) (by decide +kernel)

/-- The floor delay out on a part without pages and on one with every record in use; the last call cancelled without a page and with
one; and the end of a page while groups wait. -/
theorem witness_FloorPages :
    (∀ b, ((floorRinging b [floorCall]).deng.groups.get 63).config.floorTarget = some 31)
    ∧ (let s := floorRinging false [floorCall];
      findCall 9 s = some floorCall ∧ floorCall.hunt = some { part 63 with floorAt := some 0 }
        ∧ (s.deng.groups.get 63).floorCondition = false ∧ (∀ d ∈ s.deng.calls, d.ref = 9 → d = floorCall) ∧ NoPages s)
    ∧ (∀ q, allPages.pctl.pages.get q ≠ none)
    ∧ (let s := floorRinging true [floorCall];
      Served 0x02 3 s ∧ bits 9 0 16 = (9 : CallRef).toNat ∧ findCall 9 s = some floorCall ∧ floorCall.ringing = []
        ∧ floorCall.reservations = [] ∧ (s.deng.groups.get 63).floorCondition = true
        ∧ ¬ FloorHolds 63 (s.deng.calls.filter (·.ref ≠ 9)) (s.deng.groups.get 63) ∧ (∀ q, s.pctl.pages.get q = none)
        ∧ s.pctl.waitList = [])
    ∧ (let s := { floorRinging true [floorCall] with pctl := { Pctl.initial with
        pages := putAt Pctl.initial.pages 15 (some { livePageRec .pending with origin := .group 63 }), pageOrder := [15] } };
      s.pctl.pages.get 15 = some { livePageRec .pending with origin := .group 63 } ∧ heldZones 15 s = []
        ∧ ∀ q, q ≠ 15 → s.pctl.pages.get q = none)
    ∧ (let s := allPages;
      Served 0x0C 3 s ∧ bits 15 0 8 = (15 : PageNo).val ∧ s.pctl.pages.get 15 = some (livePageRec .active)
        ∧ heldZones 15 s = [] ∧ (∀ q, s.pctl.pages.get q ≠ none) ∧ s.pctl.pageOrder.Nodup ∧ s.pctl.waitList = [62] ++ 63 :: []
        ∧ (s.pctl.pages.get 3).map (·.origin) = some (.group 62)
        ∧ (∀ q, ((s.pctl.pages.get q).all fun r => r.origin ≠ .group 63 && zonesToTake r s = []) = true)
        ∧ ∀ z : ZoneNo, (s.pctl.targets.get 31).getLsbD z.val = true → s.pctl.enabled.get z = false) := by
  refine ⟨fun b => by cases b <;> decide +kernel, ⟨by decide +kernel, rfl, by decide +kernel, by decide +kernel,
    noPages _ rfl rfl rfl rfl⟩, by decide +kernel, ⟨served 2 _ _ rfl rfl, by decide, by decide +kernel, rfl, rfl,
      by decide +kernel, ?_, by decide +kernel, rfl⟩, by decide +kernel, served 12 _ _ rfl rfl, by decide, by decide +kernel,
    by decide +kernel, by decide +kernel, by decide +kernel, rfl, by decide +kernel, by decide +kernel, by decide +kernel⟩
  have e : (floorRinging true [floorCall]).deng.calls.filter (·.ref ≠ 9) = [] := by decide +kernel
  rw [e]
  rintro ⟨-, ⟨c, hc, -⟩ | ⟨a, b⟩ | ⟨-, c, hc, -⟩⟩
  · simp at hc
  · simp only [List.filter_nil, List.length_nil] at b
    omega
  · simp at hc

/-- Page 15 holds zone 23 with some samples and plays a tone context; pattern 4 has two steps, repeat count `n`. -/
def toning (c : ToneCtx) (r : PageRec) (n : Nat) (fifo : List Sample) : State :=
  let s := holding .active fifo
  { s with
    pctl := { s.pctl with pages := putAt s.pctl.pages 15 (some r) }
    ctp := { s.ctp with
      contexts := putAt s.ctp.contexts 15 ⟨ClipEntry.initial, .tone c, false⟩
      patterns := putAt s.ctp.patterns 4 (twoSteps ⟨0, 0, 1⟩ n) } }

/-- A context at the given step of pattern 4. -/
def toneAt (use : ToneUse) (step : Fin 8) (left : Nat) : ToneCtx := ⟨use, 4, step, ⟨440, 80, 2⟩, left, 3604, 0, false⟩

theorem paced (s : State) (hf : (s.pctl.holders.get 23).map (·.page) = some 15) (hl : s.zos.linkNow = 7)
    (h : ∀ z : ZoneNo, (s.zos.zones.get z).fifo.length < 64) : Paced 15 s := by
  have e : ∃ z : ZoneNo, (∃ h, s.pctl.holders.get z = some h ∧ h.page = 15) ∧ s.zos.linkNow.getLsbD (z.val / 8) = true := by
    cases hh : s.pctl.holders.get 23 with
    | none => simp [hh] at hf
    | some x => exact ⟨23, ⟨x, hh, by simpa [hh] using hf⟩, by rw [hl]; decide⟩
  unfold Paced
  rw [if_pos e]
  exact fun z _ => h z

/-- Unpaced by a full FIFO; a silent floor ring, a step that goes on, one that ends in the next, and the end of a pass of each use: with
another pass, with an end cause, and releasing; a preamble's page in PREAMBLE, with a LIVE and with a TONE source, and past it. -/
theorem witness_ToneProduces :
    (tonePlaying.ctp.contexts.get 15).playing = .tone ⟨.source, 4, 0, ⟨440, 80, 2⟩, 2, 3604, 0, false⟩
    ∧ ¬ Paced 15 (toning (toneAt .source 0 2) (livePageRec .active) 1 (List.replicate 64 0))
    ∧ (∀ x ∈ [({ toneAt .floorRing 0 1 with silent := true }, livePageRec .active, 1), (toneAt .source 0 2, livePageRec .active, 1),
        (toneAt .source 0 1, livePageRec .active, 1), (toneAt .floorRing 1 1, livePageRec .active, 1),
        (toneAt .source 7 1, livePageRec .active, 2), (toneAt .source 1 1, { livePageRec .active with endCause := some .request }, 1),
        (toneAt .source 1 1, livePageRec .active, 1), (toneAt .preamble 1 1, livePageRec .active, 1),
        (toneAt .preamble 1 1, livePageRec .preamble, 1), (toneAt .preamble 1 1, { livePageRec .preamble with source := .tone 4 }, 1)],
      let s := toning x.1 x.2.1 x.2.2 [5]
      (s.ctp.contexts.get 15).playing = .tone x.1 ∧ Paced 15 s ∧ s.pctl.pages.get 15 = some x.2.1
        ∧ s.ctp.fetches.get 15 = none ∧ ((s.ctp.patterns.get 4).steps.get 0).duration ≠ 0
        ∧ ((s.ctp.patterns.get 4).steps.get 1).duration ≠ 0 ∧ ((s.ctp.patterns.get 4).steps.get 2).duration = 0
        ∧ (x.2.1.endCause = none → EndsHolding 15 x.2.1 s)) := by
  refine ⟨by decide +kernel, fun h => ?_, fun x hx => ?_⟩
  · unfold Paced at h
    rw [if_pos ⟨23, ⟨⟨15, .normal, 0, false⟩, by decide +kernel⟩, by decide +kernel⟩] at h
    exact absurd (h 23 ⟨⟨⟨15, .normal, 0, false⟩, by decide +kernel⟩, by decide +kernel⟩) (by decide +kernel)
  · simp only [List.mem_cons, List.not_mem_nil, or_false] at hx
    rcases hx with rfl | rfl | rfl | rfl | rfl | rfl | rfl | rfl | rfl | rfl <;>
      exact ⟨by decide +kernel, paced _ (by decide +kernel) rfl (by decide +kernel), by decide +kernel, by decide +kernel,
        by decide +kernel, by decide +kernel, by decide +kernel,
        fun h => endsHolding _ _ (by decide +kernel) h (by decide +kernel) (by decide +kernel) rfl⟩

/-- Page 15 holds zone 23 and plays a clip of one block, one pass or two, with a fetch outstanding or none. -/
def clipping (c : ClipCtx) (repeats : Nat) (fetch : Bool) : State :=
  let s := holding .active [5]
  { s with ctp := { s.ctp with
      contexts := putAt s.ctp.contexts 15 ⟨⟨0, 2, repeats, 1⟩, .clip c, false⟩
      fetches := putAt s.ctp.fetches 15 (if fetch = true then some (landing false []) else none) } }

/-- A gap; a block with samples left; the last sample of one that is not final, with a fetch outstanding and with none; the last of a
final one, with another pass and without; and a player that waits. -/
theorem witness_ClipProduces : ∀ x ∈ [({ clipCtx .empty with gapLeft := 1 }, 2, false), (clipCtx (.full 0 2 false [6, 7]), 2, false),
      (clipCtx (.full 0 1 false [6]), 2, true),
      ({ clipCtx (.full 0 1 false [6]) with toFetch := true, bufB := .full 1 1 false [7] }, 2, false),
      (clipCtx (.full 1 1 true [6]), 2, true), (clipCtx (.full 1 1 true [6]), 1, false), (clipCtx (.awaiting 0), 1, true)],
    let s := clipping x.1 x.2.1 x.2.2
    (s.ctp.contexts.get 15).playing = .clip x.1 ∧ Paced 15 s ∧ x.1.playingB = false
      ∧ (s.ctp.fetches.get 15).isSome = x.2.2 ∧ EndsHolding 15 (livePageRec .active) s := by
  intro x hx
  simp only [List.mem_cons, List.not_mem_nil, or_false] at hx
  rcases hx with rfl | rfl | rfl | rfl | rfl | rfl | rfl <;>
    exact ⟨by decide +kernel, paced _ (by decide +kernel) rfl (by decide +kernel), rfl, by decide +kernel,
      endsHolding _ _ (by decide +kernel) rfl (by decide +kernel) (by decide +kernel) rfl⟩

/-- R178, R179: a write that meets the first burst of a fetch waits for its end, and is carried then. -/
theorem test_blockFetchLands_firstBurst :
    let s := putFetch 15 (some { landing false [] with bursts := 0 }) (fetching (.clip (clipCtx sixteen)))
    let t := next (.plainWrite 0x3000 7 0xF) (next (.masterBurstStart false) s)
    let u := next .blockFetchLands t
    (t.ptu.waiting = [.plain 0x3000 7 0xF] ∧ t.ptu.array = [] ∧ t.ptu.burst = some (.fetch 15))
      ∧ arrayWord 0x3000 u = 7 ∧ u.ptu.burst = none
      ∧ u.ctp.fetches.get 15 = some { landing false (List.replicate 8 0) with bursts := 1 } := by decide +kernel

/-- R178, R180: with an urgent fetch the write waits for one more burst, the one of the hold. -/
theorem test_blockFetchLands_hold :
    let s := putFetch 15 (some { landing false [] with bursts := 0 }) (fetching .idle)
    let t := next .blockFetchLands { s with ptu := { s.ptu with burst := some (.fetch 15), waiting := [.plain 0x3000 7 0xF] } }
    let u := next .blockFetchLands t
    (t.ptu.waiting = [.plain 0x3000 7 0xF] ∧ t.ptu.burst = some (.fetch 15)) ∧ u.ptu.waiting = [] ∧ u.ptu.burst = none
      ∧ arrayWord 0x3000 u = 7 ∧ u.ptu.holdMark = true := by decide +kernel

/-- The third burst of a fetch; a well-formed block of one sample and of 62, three blocks that are not well-formed, and landings for a
cleared context, with a new clip and with none. -/
theorem witness_BlockLands :
    (let s := landsNow .idle { landing false [] with bursts := 2 };
      s.ptu.burst = some (.fetch 15) ∧ s.ptu.waiting = [] ∧ s.ctp.fetches.get 15 = some { landing false [] with bursts := 2 })
    ∧ (∀ x ∈ [(clipCtx (.awaiting 0), landing false [0x13EA5]), (clipCtx (.awaiting 0), landing true [])],
      let s := { landsNow (.clip x.1) x.2 with pctl := (holding .active []).pctl, zos := (holding .active [5]).zos }
      s.ptu.burst = some (.fetch 15) ∧ s.ptu.waiting = [] ∧ s.ctp.fetches.get 15 = some x.2
        ∧ (s.ctp.contexts.get 15).playing = .clip x.1 ∧ EndsHolding 15 (livePageRec .active) s)
    ∧ (bits 0x01A5 0 8 = 0xA5 ∧ bits 0x01A5 8 8 = 1 ∧ bits 0x13EA5 0 8 = 0xA5 ∧ bits 0x13EA5 8 8 = 62
      ∧ bits 0x01A4 0 8 ≠ 0xA5 ∧ bits 0x00A5 8 8 = 0 ∧ 62 < bits 0x3FA5 8 8)
    ∧ (let s := landsNow .idle (landing true []);
      s.ptu.burst = some (.fetch 15) ∧ s.ptu.waiting = [] ∧ s.ctp.fetches.get 15 = some (landing true [])
        ∧ (s.ctp.contexts.get 15).playing = .idle)
    ∧ (landing true []).bursts = 3 := by
  refine ⟨by decide +kernel, fun x hx => ?_, by decide, by decide +kernel, rfl⟩
  simp only [List.mem_cons, List.not_mem_nil, or_false] at hx
  rcases hx with rfl | rfl <;> exact ⟨rfl, rfl, by decide +kernel, by decide +kernel,
    endsHolding _ _ (by decide +kernel) rfl (by decide +kernel) (by decide +kernel) rfl⟩

/-- A sample inside the blocks; a thousandth one where no page is BACKGROUND, and where no zone enters or leaves LOUD; a tainted
block, a frozen one, one before READY, and the resume timer at its expiry. -/
theorem witness_BlockCompletes :
    (let s := { ready with amon := Vector.ofFn fun z => { ready.amon.get z with blockCount := 999 } };
      s.ptu.mode ≠ .resetLow ∧ ∀ z : ZoneNo, (s.amon.get z).blockCount < 1000)
    ∧ (let s := modAmon 23 (fun a => { a with blockCount := 1000 }) (holding .active []);
      1000 ≤ (s.amon.get 23).blockCount ∧ (s.amon.get 23).tainted = false ∧ (s.amon.get 23).freeze = .off
        ∧ s.ptu.mode = .ready ∧ ∀ p, ((s.pctl.pages.get p).all fun r => r.priority ≠ .background) = true)
    ∧ (let s := modAmon 23 (fun a => { a with ne := 0 }) losing;
      1000 ≤ (s.amon.get 23).blockCount
        ∧ ∀ z : ZoneNo, (afterBlock (s.amon.get z)).window ≠ .loud ∧ (s.amon.get z).window ≠ .loud)
    ∧ (let s := modAmon 23 (fun a => { a with blockCount := 1000, tainted := true }) ready;
      1000 ≤ (s.amon.get 23).blockCount ∧ (s.amon.get 23).tainted = true)
    ∧ (let s := modAmon 23 (fun a => { a with blockCount := 1000, freeze := .resuming 0 }) ready;
      1000 ≤ (s.amon.get 23).blockCount ∧ (s.amon.get 23).freeze = .resuming 0 ∧ 0 ≤ s.ptu.clock)
    ∧ (let s := modAmon 23 (fun a => { a with blockCount := 1000 }) (scanning 0);
      1000 ≤ (s.amon.get 23).blockCount ∧ s.ptu.mode ≠ .ready) := by decide +kernel

/-- One MIC_SAMPLE takes a sample of every zone's chain, and completes no block by itself (R116, R119). -/
theorem test_micSample_allZones :
    ((List.finRange 24).map fun z =>
      ((next (.micSample [] (Vector.ofFn fun _ => BitVec.allOnes 128)) ready).amon.get z).blockCount) = List.replicate 24 1 := by
  decide +kernel

/-- BLOCK_COMPLETE empties every zone's block at once (R119). -/
theorem test_blockComplete_allZones :
    let s := { ready with amon := Vector.ofFn fun z => { ready.amon.get z with blockCount := 1000 } }
    ((List.finRange 24).map fun z => ((next (.blockComplete [23]) s).amon.get z).blockCount) = List.replicate 24 0 := by
  decide +kernel

/-- Page 15 is RELEASING and lets zone 23 go, whose ramp timer is out one step above 0; it lets zone 22 go too, or holds no other; some
other pages stand behind it in the Page Order. -/
def freeing (holdsMore : Bool) (others : List (PageNo × PageRec)) : State :=
  let s := withZone 23 true { fullZone [] with gt := 0, ga := 1, rampAt := some 0 } (onePage .releasing)
  let s := { s with pctl := { s.pctl with
    pages := putAt (others.foldl (fun v x => putAt v x.1 (some x.2)) s.pctl.pages) 15
      (some { livePageRec .releasing with endCause := some .maxDuration })
    pageOrder := s.pctl.pageOrder ++ others.map (·.1) } }
  if holdsMore = true then putHolder 22 (some ⟨15, .normal, 0, true⟩) s else s

/-- A page that wants zone 23. -/
def wantsZone (st : PageState) (pr : PagePriority) : PageRec := { livePageRec st with wanted := [23], priority := pr, source := .live 0 }

/-- A zone that steps and stays held; one that reaches 0, the last of its page or not, with no page that wants it; one that goes to a page,
PENDING or ACTIVE, alone or before a page of a lower priority and one of the same priority behind it; a taker that is not EMERGENCY, one
that is, and a zone that is held. -/
theorem witness_RampSteps :
    (let s := modZos 23 (fun x => { x with gt := 0, rampAt := some 0 }) (holding .active []);
      (s.zos.zones.get 23).rampAt = some 0 ∧ s.pctl.holders.get 23 = some ⟨15, .normal, 0, false⟩)
    ∧ (∀ more ∈ [true, false],
      ∀ others ∈ [[], [(0, wantsZone .pending .normal)], [((1 : PageNo), wantsZone .active .background)],
        [(2, wantsZone .pending .background), (0, wantsZone .active .normal), (1, wantsZone .pending .normal)]],
      let s := freeing more others
      (s.zos.zones.get 23).rampAt = some 0 ∧ (s.zos.zones.get 23).ga = 1 ∧ s.pctl.holders.get 23 = some ⟨15, .normal, 0, true⟩
        ∧ s.pctl.pages.get 15 = some { livePageRec .releasing with endCause := some .maxDuration } ∧ s.pctl.waitList = []
        ∧ (heldZones 15 s = [23] ↔ more = false)
        ∧ (∀ p : PageNo, ((s.pctl.pages.get p).all fun q => zonesToTake q s = []) = true)
        ∧ ∀ x ∈ others, s.pctl.pages.get x.1 = some x.2 ∧ zonesToTake x.2 (zoneLeft 23 ⟨15, .normal, 0, true⟩ s) = [23]
          ∧ zonesToTake x.2 (recordFreed 15 (livePageRec .releasing) none (zoneLeft 23 ⟨15, .normal, 0, true⟩ s)) = [23])
    ∧ (let s := freeing false [(2, wantsZone .pending .background), (0, wantsZone .active .normal), (1, wantsZone .pending .normal)];
      s.pctl.pageOrder.idxOf 0 < s.pctl.pageOrder.idxOf 1 ∧ priorityRank .background < priorityRank .normal)
    ∧ (let h : Holder := ⟨15, .urgent, 15, false⟩; h.lettingGo = false ∧ h.priority ≠ .emergency)
    ∧ (let h : Holder := ⟨15, .emergency, -16, false⟩; h.lettingGo = false ∧ h.priority = .emergency)
    ∧ ((holding .active []).pctl.holders.get 23).isSome = true := by decide +kernel

/-- The last zone of a RELEASING page reaches 0: the zone and the record are free, and a page that waits for the zone starts with it
(R82, R83, R91). -/
theorem test_rampTimerExpiry_lastZone :
    let s := freeing false [(0, wantsZone .pending .normal)]
    let t := next (.rampTimerExpiry 23) s
    t.pctl.pages.get 15 = none ∧ t.pctl.pageOrder = [0] ∧ t.pctl.holders.get 23 = some ⟨0, .normal, 0, false⟩
      ∧ ((t.pctl.pages.get 0).map (·.state)) = some .active
      ∧ t.ntu.queue.map (·.notice) = [.pageState 15 .ended (some .maxDuration) .request .normal,
        .pageState 0 .active none .request .normal] := by decide +kernel

/-- The least level, and the level of the table's end. -/
theorem witness_LevelCodes : 2 ^ 0 ≤ 1 ∧ 1 < 2 ^ (0 + 1) ∧ 2 ^ 15 ≤ 32768 ∧ 32768 < 2 ^ (15 + 1) := by decide

/-- Both ends of the gain. -/
theorem witness_ScalingBounded : (0 : Nat) ≤ 96 ∧ 96 ≤ 96 ∧ 0 < 96 := by decide

/-- Out of reset with sound tables; a full queue; a full and an empty park slot; a page in use and one free; a held zone that is sound
and a free one; a slot in each state. -/
theorem witness_AnsweredWords :
    (ready.ptu.mode ≠ .resetLow ∧ referencesSound ready ∧ idleOrderSound ready ∧ PortFree ready
      ∧ (queueOf 63 ready).length ≤ 16)
    ∧ (let s := putPark 15 (some ⟨9, none, none, 600000, none⟩) (holding .active [5, 6]);
      s.ptu.mode ≠ .resetLow ∧ s.deng.parks.get 15 = some ⟨9, none, none, 600000, none⟩ ∧ s.deng.parks.get 0 = none
        ∧ s.pctl.pages.get 15 = some (livePageRec .active) ∧ s.pctl.pages.get 0 = none ∧ (s.amon.get 23).ne ≤ 1920)
    ∧ ZoneSound ((holding .active [5, 6]).pctl.holders.get 23) ((holding .active [5, 6]).zos.zones.get 23)
    ∧ ZoneSound (ready.pctl.holders.get 0) (ready.zos.zones.get 0)
    ∧ ((ready.rqu.slots.get 0).state = .idle ∧ ((slots 1 ⟨0, 0, 0, 0⟩).slots.get 3).state = .pending
      ∧ ((finishSlot 15 ⟨.ok, 0, 0⟩ ready).rqu.slots.get 15).state = .done) := by
  have hz : (holding .active [5, 6]).zos.zones.get 23 = fullZone [5, 6] := by decide +kernel
  have hh : (holding .active [5, 6]).pctl.holders.get 23 = some ⟨15, .normal, 0, false⟩ := by decide +kernel
  refine ⟨⟨by decide, ⟨by decide, by decide +kernel⟩, ?_, portReady, by decide +kernel⟩, by decide +kernel, ?_, ?_,
    by decide +kernel⟩
  · simp [idleOrderSound, ready, State.reset, Lmon.initial, LineShadow.initial]
  · rw [hz, hh]
    constructor <;> simp [fullZone, emergencyHeld, Config.fifoDepth]
  · constructor <;> simp [ready, State.reset, Pctl.initial, Zos.initial, ZosZone.initial, emergencyHeld]

end Sys2Proof.Tests
end

section
namespace Sys2Proof.Machine

/-! ### Commands taken from a slot -/

/-- A served command's row hands the snapshot to its handler, at the pointer, and writes the reply into the slot (R159). -/
theorem command_of_served {code : Nat} {n : SlotNo} {s : State} (h : Served code n s)
    (f : Params → State → State × Reply) :
    command code f s = finishSlot n (f (s.rqu.slots.get n).snapshot (pointed n s)).2
      (f (s.rqu.slots.get n).snapshot (pointed n s)).1 := by
  simp [command, slotFor, h.ready, h.next, h.code, serve, pointed]

@[simp] theorem pointed_pending (n : SlotNo) (s : State) : (pointed n s).pending = s.pending := rfl
@[simp] theorem pointed_ptu (n : SlotNo) (s : State) : (pointed n s).ptu = s.ptu := rfl
@[simp] theorem pointed_lmon (n : SlotNo) (s : State) : (pointed n s).lmon = s.lmon := rfl
@[simp] theorem pointed_deng (n : SlotNo) (s : State) : (pointed n s).deng = s.deng := rfl
@[simp] theorem pointed_pctl (n : SlotNo) (s : State) : (pointed n s).pctl = s.pctl := rfl
@[simp] theorem pointed_ctp (n : SlotNo) (s : State) : (pointed n s).ctp = s.ctp := rfl
@[simp] theorem pointed_amon (n : SlotNo) (s : State) : (pointed n s).amon = s.amon := rfl
@[simp] theorem pointed_zos (n : SlotNo) (s : State) : (pointed n s).zos = s.zos := rfl
@[simp] theorem pointed_ntu (n : SlotNo) (s : State) : (pointed n s).ntu = s.ntu := rfl

theorem groupParam_val (g : GroupNo) : groupParam g.val = some g := by
  have h : g.val ≤ 63 := by omega
  simp [groupParam, h]

theorem groupParam_out {n : Nat} (h : 63 < n) : groupParam n = none := by
  simp [groupParam, Nat.not_le.mpr h]

theorem lineParam_val (l : LineNo) : lineParam l.val = some l := by
  have h : l.val ≤ 1023 := by omega
  simp [lineParam, h]

theorem lineParam_out {n : Nat} (h : 1023 < n) : lineParam n = none := by
  simp [lineParam, Nat.not_le.mpr h]

/-! ### Effective members (R23) -/

/-- The first number of a range that satisfies a condition. -/
theorem find?_finRange_eq_some {n : Nat} {p : Fin n → Bool} {i : Fin n} :
    (List.finRange n).find? p = some i ↔ p i = true ∧ ∀ j < i, ¬ p j = true := by
  rw [List.find?_eq_some_iff_getElem]
  refine and_congr_right fun _ => ⟨?_, fun h => ⟨i.val, by simp, by simp, fun j hj => by simpa using h ⟨j, by omega⟩ hj⟩⟩
  rintro ⟨k, hk, e, h⟩ j hj
  have hki : k = i.val := by simpa [Fin.ext_iff] using e
  simpa using h j.val (by omega)

theorem isEffective_iff (h : HuntGroup) (i : MemberPos) :
    isEffective h i = true ↔ (h.members.get i).valid = true
      ∧ ∀ j < i, (h.members.get j).valid = true → (h.members.get j).line ≠ (h.members.get i).line := by
  simp only [isEffective, Bool.and_eq_true, List.all_eq_true, List.mem_finRange, Bool.not_eq_true', true_implies,
    Bool.and_eq_false_iff, decide_eq_false_iff_not]
  refine and_congr_right fun _ => forall_congr' fun j => ?_
  cases (h.members.get j).valid <;> simp [imp_iff_not_or]

/-- No line is an effective member of a group at two positions. -/
theorem isEffective_inj {h : HuntGroup} {i j : MemberPos} (hi : isEffective h i = true) (hj : isEffective h j = true)
    (e : (h.members.get i).line = (h.members.get j).line) : i = j := by
  rw [isEffective_iff] at hi hj
  rcases lt_trichotomy i j with lt | eq | gt
  · exact absurd e (hj.2 i lt hi.1)
  · exact eq
  · exact absurd e.symm (hi.2 j gt hj.1)

/-- The position at which a line is an effective member is the one effective position that holds it. -/
theorem posOf_eq_some {h : HuntGroup} {l : LineNo} {i : MemberPos} :
    posOf h l = some i ↔ isEffective h i = true ∧ (h.members.get i).line = l := by
  rw [posOf, find?_finRange_eq_some, isEffective_iff]
  simp only [Bool.and_eq_true, decide_eq_true_eq, not_and]
  constructor
  · rintro ⟨⟨hv, rfl⟩, hf⟩
    exact ⟨⟨hv, hf⟩, rfl⟩
  · rintro ⟨⟨hv, hf⟩, rfl⟩
    exact ⟨⟨hv, rfl⟩, hf⟩

/-- A line that no effective position holds is no member. -/
theorem posOf_eq_none {h : HuntGroup} {l : LineNo} :
    posOf h l = none ↔ ∀ i, isEffective h i = true → (h.members.get i).line ≠ l := by
  rw [Option.eq_none_iff_forall_ne_some]
  simp only [ne_eq, posOf_eq_some, not_and]

/-- The effective line of a position is the one that R23 spells out. -/
theorem effectiveLine_eq_memberAt (h : HuntGroup) (i : MemberPos) : effectiveLine h i = memberAt h i := by
  simp only [effectiveLine, memberAt, isEffective_iff]

theorem eligibleAt_iff {g : GroupNo} {i : MemberPos} {s : State} :
    eligibleAt g i s = true ↔ isEffective (s.deng.groups.get g) i = true
      ∧ ((s.deng.groups.get g).members.get i).signedIn = true
      ∧ lineFree ((s.deng.groups.get g).members.get i).line s = true := by
  simp [eligibleAt, and_assoc]

theorem mem_eligibles {g : GroupNo} {i : MemberPos} {s : State} : i ∈ eligibles g s ↔ eligibleAt g i s = true := by
  simp [eligibles]

end Sys2Proof.Machine
end

section
namespace Sys2Proof.Machine

/-! ### Sign-in and service state (R48, R49) -/

theorem exec_signIn {n : SlotNo} {s : State} (h : Served 0x03 n s) :
    exec .signIn s = .next (finishSlot n (signIn (s.rqu.slots.get n).snapshot (pointed n s)).2
      (signIn (s.rqu.slots.get n).snapshot (pointed n s)).1) :=
  congrArg Host.Outcome.next (command_of_served h signIn)

theorem exec_signOut {n : SlotNo} {s : State} (h : Served 0x04 n s) :
    exec .signOut s = .next (finishSlot n (signOut (s.rqu.slots.get n).snapshot (pointed n s)).2
      (signOut (s.rqu.slots.get n).snapshot (pointed n s)).1) :=
  congrArg Host.Outcome.next (command_of_served h signOut)

theorem exec_setNight {n : SlotNo} {s : State} (h : Served 0x05 n s) :
    exec .setNight s = .next (finishSlot n (setNight (s.rqu.slots.get n).snapshot (pointed n s)).2
      (setNight (s.rqu.slots.get n).snapshot (pointed n s)).1) :=
  congrArg Host.Outcome.next (command_of_served h setNight)

theorem exec_setDay {n : SlotNo} {s : State} (h : Served 0x06 n s) :
    exec .setDay s = .next (finishSlot n (setDay (s.rqu.slots.get n).snapshot (pointed n s)).2
      (setDay (s.rqu.slots.get n).snapshot (pointed n s)).1) :=
  congrArg Host.Outcome.next (command_of_served h setDay)

theorem signParams_out {p : Params} (s : State) (h : 63 < bits p.p0 0 8 ∨ 1023 < bits p.p1 0 16) :
    signParams p s = .error .badParam := by
  unfold signParams
  obtain h | h := h
  · rw [groupParam_out h]
  · rw [lineParam_out h]
    cases groupParam (bits p.p0 0 8) <;> rfl

theorem signParams_notMember {p : Params} {s : State} {g : GroupNo} {l : LineNo} (hg : bits p.p0 0 8 = g.val)
    (hl : bits p.p1 0 16 = l.val) (h : posOf (s.deng.groups.get g) l = none) : signParams p s = .error .notMember := by
  simp only [signParams, hg, hl, groupParam_val, lineParam_val, h]

theorem signParams_member {p : Params} {s : State} {g : GroupNo} {l : LineNo} {i : MemberPos} (hg : bits p.p0 0 8 = g.val)
    (hl : bits p.p1 0 16 = l.val) (h : posOf (s.deng.groups.get g) l = some i) : signParams p s = .ok (g, l, i) := by
  simp only [signParams, hg, hl, groupParam_val, lineParam_val, h]

theorem signIn_error {p : Params} {s : State} {e : ResultCode} (h : signParams p s = .error e) :
    signIn p s = (s, Reply.bare e) := by
  simp only [signIn, h]

theorem signOut_error {p : Params} {s : State} {e : ResultCode} (h : signParams p s = .error e) :
    signOut p s = (s, Reply.bare e) := by
  simp only [signOut, h]

/-- Whichever of the two commands is served, a refusal of its parameters changes nothing (R48). -/
theorem sign_refused {n : SlotNo} {s : State} {code : Nat} {c : Instr} {e : ResultCode}
    (hc : (code = 0x03 ∧ c = .signIn) ∨ (code = 0x04 ∧ c = .signOut)) (hs : Served code n s)
    (h : signParams (s.rqu.slots.get n).snapshot (pointed n s) = .error e) :
    exec c s = .next (finishSlot n ⟨e, 0, 0⟩ (pointed n s)) := by
  obtain ⟨rfl, rfl⟩ | ⟨rfl, rfl⟩ := hc
  · rw [exec_signIn hs, signIn_error h]; rfl
  · rw [exec_signOut hs, signOut_error h]; rfl

/-- Settles O40: the parameters are refused, or name the effective position that `posOf` finds. -/
theorem signInAndOut : Obligations.SignInAndOut := by
  intro n s code c hc hs p
  refine ⟨fun h => sign_refused hc hs (signParams_out _ h), ?_⟩
  intro g l hg hl h
  refine ⟨fun hn => sign_refused hc hs (signParams_notMember hg hl (posOf_eq_none.mpr hn)), ?_⟩
  intro i he hi was reply signed
  have hok : signParams p (pointed n s) = .ok (g, l, i) := signParams_member hg hl (posOf_eq_some.mpr ⟨he, hi⟩)
  obtain ⟨rfl, rfl⟩ | ⟨rfl, rfl⟩ := hc
  · refine ⟨fun _ => ?_, nofun⟩
    rw [exec_signIn hs]
    simp only [p] at hok
    simp only [signIn, hok, Bool.and_eq_true, Bool.not_eq_true']
    rfl
  · refine ⟨nofun, fun _ => ?_⟩
    rw [exec_signOut hs]
    simp only [p] at hok
    simp only [signOut, hok]
    rfl

theorem setNight_of_group {p : Params} {g : GroupNo} (h : bits p.p0 0 8 = g.val) (s : State) :
    setNight p s = (if (s.deng.groups.get g).night then s else evalFloor g (modGroup g (fun h => { h with night := true }) s),
      serviceReply (s.deng.groups.get g).night) := by
  simp only [setNight, h, groupParam_val]

theorem setDay_of_group {p : Params} {g : GroupNo} (h : bits p.p0 0 8 = g.val) (s : State) :
    setDay p s = (if (s.deng.groups.get g).night then goDay g s else s, serviceReply (s.deng.groups.get g).night) := by
  simp only [setDay, h, groupParam_val]

/-- Settles O41: the two handlers by the group they name. -/
theorem serviceStateSet : Obligations.ServiceStateSet := by
  refine fun n s => ⟨fun h c hc => ?_, fun g hg => ?_⟩
  · obtain ⟨hs, rfl⟩ | ⟨hs, rfl⟩ := hc
    · simp only [exec_setNight hs, setNight, groupParam_out h]; rfl
    · simp only [exec_setDay hs, setDay, groupParam_out h]; rfl
  · intro night reply set
    refine ⟨fun hs => ?_, fun hs => ?_⟩
    · rw [exec_setNight hs, setNight_of_group hg]
      rfl
    · rw [exec_setDay hs, setDay_of_group hg]
      by_cases hn : (s.deng.groups.get g).night = true
      · rw [pointed_deng, if_pos hn, if_neg (by simp [night, hn])]; rfl
      · rw [pointed_deng, if_neg hn, if_pos (by simpa [night] using hn)]; rfl

end Sys2Proof.Machine
end

section
namespace Sys2Proof.Machine

/-! ### Selection (R27) -/

/-- The positions from which a mode chooses: the untried ones, or, when all are tried, all but the one that failed last
unless it is the only one. -/
def selectable (withheld : List LineNo) (g : GroupNo) (tried : List MemberPos) (s : State) : List MemberPos :=
  let es := offerable withheld g s
  if es.filter (· ∉ tried) ≠ [] then es.filter (· ∉ tried)
  else if es.filter (some · ≠ tried.head?) = [] then es else es.filter (some · ≠ tried.head?)

@[simp] theorem pickByMode_nil (h : HuntGroup) (s : State) : pickByMode h [] s = [] := by
  unfold pickByMode
  cases h.config.mode <;> simp

theorem select_fst (withheld : List LineNo) (g : GroupNo) (tried : List MemberPos) (s : State) :
    (select withheld g tried s).1 = pickByMode (s.deng.groups.get g) (selectable withheld g tried s) s := by
  unfold select selectable
  dsimp only
  split
  · rfl
  · split
    · next h => simp [h]
    · rfl

theorem select_snd (withheld : List LineNo) (g : GroupNo) (tried : List MemberPos) (s : State) :
    (select withheld g tried s).2 = true ↔ offerable withheld g s ≠ [] ∧ ∀ i ∈ offerable withheld g s, i ∈ tried := by
  have none_untried : (offerable withheld g s).filter (· ∉ tried) = [] ↔ ∀ i ∈ offerable withheld g s, i ∈ tried := by
    simp only [List.filter_eq_nil_iff, decide_eq_true_eq, not_not]
  unfold select
  dsimp only
  split
  · next h => rw [ne_eq, none_untried] at h; simp only [h, and_false, reduceCtorEq]
  · next h =>
    rw [not_not, none_untried] at h
    split
    · next he => simp only [he, ne_eq, not_true_eq_false, false_and, reduceCtorEq]
    · next he => exact iff_of_true rfl ⟨he, h⟩

@[simp] theorem offerable_nil (g : GroupNo) (s : State) : offerable [] g s = eligibles g s := by
  simp [offerable]

theorem selectable_sublist (withheld : List LineNo) (g : GroupNo) (tried : List MemberPos) (s : State) :
    (selectable withheld g tried s).Sublist (List.finRange 32) := by
  have h : (offerable withheld g s).Sublist (List.finRange 32) := (List.filter_sublist).trans List.filter_sublist
  unfold selectable
  dsimp only
  split
  · exact (List.filter_sublist).trans h
  · split
    · exact h
    · exact (List.filter_sublist).trans h

theorem selectable_sorted (withheld : List LineNo) (g : GroupNo) (tried : List MemberPos) (s : State) :
    (selectable withheld g tried s).Pairwise (· < ·) :=
  (List.pairwise_lt_finRange 32).sublist (selectable_sublist withheld g tried s)

theorem eligibleAt_of_mem_selectable {withheld : List LineNo} {g : GroupNo} {tried : List MemberPos} {s : State}
    {i : MemberPos} (h : i ∈ selectable withheld g tried s) : eligibleAt g i s = true := by
  have key : i ∈ offerable withheld g s := by
    unfold selectable at h
    dsimp only at h
    split at h
    · exact List.mem_of_mem_filter h
    · split at h
      · exact h
      · exact List.mem_of_mem_filter h
  exact mem_eligibles.mp (List.mem_of_mem_filter key)

/-- Something is selectable as soon as something is offerable. -/
theorem selectable_eq_nil {withheld : List LineNo} {g : GroupNo} {tried : List MemberPos} {s : State} :
    selectable withheld g tried s = [] ↔ offerable withheld g s = [] := by
  unfold selectable
  dsimp only
  refine ⟨fun h => ?_, fun h => by simp [h]⟩
  split at h
  · contradiction
  · split at h
    · exact h
    · contradiction

theorem mem_selectable {g : GroupNo} {tried : List MemberPos} {s : State} {i : MemberPos} :
    i ∈ selectable [] g tried s ↔ eligibleAt g i s = true
      ∧ (if ∃ j, eligibleAt g j s = true ∧ j ∉ tried then i ∉ tried
        else some i ≠ tried.head? ∨ ∀ j, eligibleAt g j s = true → j = i) := by
  have some_untried : (eligibles g s).filter (· ∉ tried) ≠ [] ↔ ∃ j, eligibleAt g j s = true ∧ j ∉ tried := by
    simp [List.filter_eq_nil_iff, mem_eligibles]
  unfold selectable
  simp only [offerable_nil, some_untried]
  split
  · simp [mem_eligibles]
  · split
    · next h =>
      simp only [List.filter_eq_nil_iff, mem_eligibles, decide_eq_true_eq, ne_eq, not_not] at h
      rw [mem_eligibles]
      refine ⟨fun hi => ⟨hi, .inr fun j hj => ?_⟩, fun hi => hi.1⟩
      exact Option.some.inj ((h j hj).trans (h i hi).symm)
    · next h =>
      simp only [List.mem_filter, mem_eligibles, decide_eq_true_eq]
      refine and_congr_right fun hi => ⟨.inl, fun hf => hf.elim id fun only => ?_⟩
      obtain ⟨k, hk⟩ := List.exists_mem_of_ne_nil _ h
      simp only [List.mem_filter, mem_eligibles, decide_eq_true_eq] at hk
      exact only k hk.1 ▸ hk.2

/-! ### What each mode takes -/

/-- The first of a list in rising order of a key is its least. -/
theorem head?_toList_eq {α : Type} {key : α → Nat} {xs : List α} (hs : xs.Pairwise fun a b => key a < key b) (i : α) :
    xs.head?.toList = [i] ↔ i ∈ xs ∧ ∀ j ∈ xs, key i ≤ key j := by
  cases xs with
  | nil => simp
  | cons x xs =>
    have hx := (List.pairwise_cons.mp hs).1
    simp only [List.head?_cons, Option.toList_some, List.cons.injEq, and_true]
    constructor
    · rintro rfl
      exact ⟨by simp, by simpa using fun j hj => (hx j hj).le⟩
    · rintro ⟨hi, hm⟩
      obtain rfl | hi := List.mem_cons.mp hi
      · rfl
      · exact absurd (hm x (by simp)) (by have := hx i hi; omega)

/-- How far a position is behind the one after the pointer. -/
theorem circular_distance (a p : Fin 32) :
    (a - p - 1).val = if p < a then a.val - p.val - 1 else a.val + 31 - p.val := by
  show (31 + (32 - p.val + a.val) % 32) % 32 = _
  split <;> omega

/-- From the position after the pointer upward, wrapping from 31 to 0. -/
theorem circular_sorted (p : Fin 32) {es : List (Fin 32)} (h : es.Pairwise (· < ·)) :
    (es.filter (p < ·) ++ es.filter (· ≤ p)).Pairwise fun a b => (a - p - 1).val < (b - p - 1).val := by
  rw [List.pairwise_append]
  refine ⟨(h.filter _).imp_of_mem ?_, (h.filter _).imp_of_mem ?_, ?_⟩
  · intro a b ha hb lt
    simp only [List.mem_filter, decide_eq_true_eq] at ha hb
    rw [circular_distance, circular_distance, if_pos ha.2, if_pos hb.2]
    omega
  · intro a b ha hb lt
    simp only [List.mem_filter, decide_eq_true_eq] at ha hb
    rw [circular_distance, circular_distance, if_neg (not_lt.mpr ha.2), if_neg (not_lt.mpr hb.2)]
    omega
  · intro a ha b hb
    simp only [List.mem_filter, decide_eq_true_eq] at ha hb
    rw [circular_distance, circular_distance, if_pos ha.2, if_neg (not_lt.mpr hb.2)]
    omega

/-- The first line of an order that a position of a list holds, and the position. -/
theorem findSome?_line_eq {order : List LineNo} {es : List MemberPos} {line : MemberPos → LineNo}
    (hin : ∀ i ∈ es, line i ∈ order) (hinj : ∀ i ∈ es, ∀ j ∈ es, line i = line j → i = j) (i : MemberPos) :
    order.findSome? (fun l => es.find? fun k => line k = l) = some i
      ↔ i ∈ es ∧ ∀ j ∈ es, order.idxOf (line i) ≤ order.idxOf (line j) := by
  have first : ∀ k, order.findSome? (fun l => es.find? fun k => line k = l) = some k →
      k ∈ es ∧ ∀ j ∈ es, order.idxOf (line k) ≤ order.idxOf (line j) := by
    intro k h
    obtain ⟨before, l, behind, rfl, hk, hb⟩ := List.findSome?_eq_some_iff.mp h
    have hl : line k = l := by simpa using List.find?_some hk
    subst hl
    have absent : ∀ j ∈ es, line j ∉ before := fun j hj hm => by
      simpa using List.find?_eq_none.mp (hb _ hm) j hj
    have hke := List.mem_of_find?_eq_some hk
    refine ⟨hke, fun j hj => ?_⟩
    rw [List.idxOf_append_of_notMem (absent k hke), List.idxOf_append_of_notMem (absent j hj)]
    simp
  refine ⟨first i, fun ⟨hi, hm⟩ => ?_⟩
  cases hf : order.findSome? (fun l => es.find? fun k => line k = l) with
  | none =>
    have := List.find?_eq_none.mp (List.findSome?_eq_none_iff.mp hf _ (hin i hi)) i hi
    simp at this
  | some k =>
    obtain ⟨hk, hmin⟩ := first k hf
    have e : line k = line i := (List.idxOf_inj (hin k hk)).mp (Nat.le_antisymm (hmin i hi) (hm k hk))
    rw [hinj k hk i hi e]

theorem pickByMode_linear {h : HuntGroup} (hm : h.config.mode = .linear) (es : List MemberPos) (s : State) :
    pickByMode h es s = es.head?.toList := by
  simp only [pickByMode, hm]

theorem pickByMode_circular {h : HuntGroup} (hm : h.config.mode = .circular) (es : List MemberPos) (s : State) :
    pickByMode h es s = (es.filter (h.huntPointer < ·) ++ es.filter (· ≤ h.huntPointer)).head?.toList := by
  simp only [pickByMode, hm]

theorem pickByMode_longestIdle {h : HuntGroup} (hm : h.config.mode = .longestIdle) (es : List MemberPos) (s : State) :
    pickByMode h es s = (s.lmon.idleOrder.findSome? fun l => es.find? fun i => (h.members.get i).line = l).toList := by
  simp only [pickByMode, hm]

theorem pickByMode_allRing {h : HuntGroup} (hm : h.config.mode = .allRing) (es : List MemberPos) (s : State) :
    pickByMode h es s = es := by
  simp only [pickByMode, hm]

theorem mem_circular_iff (p i : MemberPos) (es : List MemberPos) :
    i ∈ es.filter (p < ·) ++ es.filter (· ≤ p) ↔ i ∈ es := by
  simp only [List.mem_append, List.mem_filter, decide_eq_true_eq, ← and_or_left, lt_or_ge, and_true]

/-- A mode leaves nothing out when there is something to choose from, the positions' lines being in the Idle Order. -/
theorem pickByMode_eq_nil {h : HuntGroup} {es : List MemberPos} {s : State}
    (hin : ∀ i ∈ es, (h.members.get i).line ∈ s.lmon.idleOrder) : pickByMode h es s = [] ↔ es = [] := by
  refine ⟨fun hp => ?_, fun he => by simp [he]⟩
  by_contra hne
  obtain ⟨i, hi⟩ := List.exists_mem_of_ne_nil _ hne
  cases hm : h.config.mode with
  | linear => simp [pickByMode_linear hm, hne] at hp
  | circular =>
    rw [pickByMode_circular hm, Option.toList_eq_nil_iff, List.head?_eq_none_iff] at hp
    exact List.ne_nil_of_mem ((mem_circular_iff h.huntPointer i es).mpr hi) hp
  | longestIdle =>
    rw [pickByMode_longestIdle hm, Option.toList_eq_nil_iff, List.findSome?_eq_none_iff] at hp
    simpa using List.find?_eq_none.mp (hp _ (hin i hi)) i hi
  | allRing => exact hne (pickByMode_allRing hm es s ▸ hp)

/-- The line of an eligible position is IDLE (R26). -/
theorem idle_of_eligibleAt {g : GroupNo} {i : MemberPos} {s : State} (h : eligibleAt g i s = true) :
    (s.lmon.shadows.get ((s.deng.groups.get g).members.get i).line).state = .idle := by
  have hf := (eligibleAt_iff.mp h).2.2
  simp only [lineFree, Bool.and_eq_true, decide_eq_true_eq] at hf
  exact hf.1

/-- Settles O35: each mode takes its least of the selectable positions, which are those the statement describes. -/
theorem selectionByMode : Obligations.SelectionByMode := by
  intro g tried s hidle h out from_
  have hout : out.1 = pickByMode h (selectable [] g tried s) s := select_fst [] g tried s
  have hmem : ∀ i, i ∈ selectable [] g tried s ↔ from_ i := fun i => mem_selectable
  have hsorted := selectable_sorted [] g tried s
  have hin : ∀ i ∈ selectable [] g tried s, (h.members.get i).line ∈ s.lmon.idleOrder := fun i hi =>
    (hidle.2 _).mpr (idle_of_eligibleAt (eligibleAt_of_mem_selectable hi))
  have hinj : ∀ i ∈ selectable [] g tried s, ∀ j ∈ selectable [] g tried s,
      (h.members.get i).line = (h.members.get j).line → i = j := fun i hi j hj =>
    isEffective_inj (eligibleAt_iff.mp (eligibleAt_of_mem_selectable hi)).1
      (eligibleAt_iff.mp (eligibleAt_of_mem_selectable hj)).1
  refine ⟨?_, ?_, fun hm i => ?_, fun hm i => ?_, fun hm i => ?_, fun hm => ⟨fun i => ?_, ?_⟩⟩
  · rw [select_snd, offerable_nil, ne_eq, List.eq_nil_iff_forall_not_mem]
    simp only [not_forall, not_not, mem_eligibles]
  · rw [hout, pickByMode_eq_nil hin, selectable_eq_nil, offerable_nil, List.eq_nil_iff_forall_not_mem]
    simp only [mem_eligibles, Bool.not_eq_true]
  · rw [hout, pickByMode_linear hm, head?_toList_eq (key := Fin.val) hsorted]
    simp only [hmem, Fin.le_def]
  · rw [hout, pickByMode_circular hm, head?_toList_eq (circular_sorted h.huntPointer hsorted)]
    simp only [mem_circular_iff, hmem]
  · rw [hout, pickByMode_longestIdle hm, Option.toList_eq_singleton_iff, findSome?_line_eq hin hinj]
    simp only [hmem]
  · rw [hout, pickByMode_allRing hm, hmem]
  · rw [hout, pickByMode_allRing hm]
    exact hsorted

end Sys2Proof.Machine
end

section
namespace Sys2Proof.Machine

/-! ### Notices raised one after another (R165) -/

/-- The notice unit after some notices, from the PTU's state and its own: nothing else of the part has a say. -/
def ntuAfter (ns : List Notice) (p : Ptu) (q : Ntu) : Ntu := (raiseAll ns { State.reset with ptu := p, ntu := q }).ntu

theorem raiseNotice_ntuAfter (n : Notice) (s : State) : raiseNotice n s = { s with ntu := ntuAfter [n] s.ptu s.ntu } := by
  simp only [ntuAfter, raiseAll, List.foldl_cons, List.foldl_nil, raiseNotice]
  split
  · split <;> rfl
  · rfl

@[simp] theorem ntuAfter_nil (p : Ptu) (q : Ntu) : ntuAfter [] p q = q := rfl

theorem ntuAfter_cons (n : Notice) (ns : List Notice) (p : Ptu) (q : Ntu) :
    ntuAfter (n :: ns) p q = ntuAfter ns p (ntuAfter [n] p q) := by
  show (raiseAll ns (raiseNotice n _)).ntu = _
  rw [raiseNotice_ntuAfter]
  rfl

@[simp] theorem ntuAfter_ntuAfter (ms ns : List Notice) (p : Ptu) (q : Ntu) :
    ntuAfter ns p (ntuAfter ms p q) = ntuAfter (ms ++ ns) p q := by
  induction ms generalizing q with
  | nil => rfl
  | cons m ms ih => rw [ntuAfter_cons m ms, ih, List.cons_append, ntuAfter_cons m (ms ++ ns)]

theorem raiseAll_ntuAfter (ns : List Notice) (s : State) : raiseAll ns s = { s with ntu := ntuAfter ns s.ptu s.ntu } := by
  induction ns generalizing s with
  | nil => rfl
  | cons n ns ih =>
    show raiseAll ns (raiseNotice n s) = _
    rw [ih, raiseNotice_ntuAfter, ntuAfter_cons n ns]

@[simp] theorem raiseAll_nil (s : State) : raiseAll [] s = s := rfl

theorem raiseAll_append (ms ns : List Notice) (s : State) : raiseAll (ms ++ ns) s = raiseAll ns (raiseAll ms s) :=
  List.foldl_append

theorem raiseAll_singleton (n : Notice) (s : State) : raiseAll [n] s = raiseNotice n s := rfl

@[simp] theorem raiseAll_pending (ns : List Notice) (s : State) : (raiseAll ns s).pending = s.pending := by rw [raiseAll_ntuAfter]
@[simp] theorem raiseAll_ptu (ns : List Notice) (s : State) : (raiseAll ns s).ptu = s.ptu := by rw [raiseAll_ntuAfter]
@[simp] theorem raiseAll_lmon (ns : List Notice) (s : State) : (raiseAll ns s).lmon = s.lmon := by rw [raiseAll_ntuAfter]
@[simp] theorem raiseAll_deng (ns : List Notice) (s : State) : (raiseAll ns s).deng = s.deng := by rw [raiseAll_ntuAfter]
@[simp] theorem raiseAll_pctl (ns : List Notice) (s : State) : (raiseAll ns s).pctl = s.pctl := by rw [raiseAll_ntuAfter]
@[simp] theorem raiseAll_ctp (ns : List Notice) (s : State) : (raiseAll ns s).ctp = s.ctp := by rw [raiseAll_ntuAfter]
@[simp] theorem raiseAll_amon (ns : List Notice) (s : State) : (raiseAll ns s).amon = s.amon := by rw [raiseAll_ntuAfter]
@[simp] theorem raiseAll_zos (ns : List Notice) (s : State) : (raiseAll ns s).zos = s.zos := by rw [raiseAll_ntuAfter]
@[simp] theorem raiseAll_rqu (ns : List Notice) (s : State) : (raiseAll ns s).rqu = s.rqu := by rw [raiseAll_ntuAfter]

theorem raiseNotice_ptu (n : Notice) (s : State) : (raiseNotice n s).ptu = s.ptu := by rw [raiseNotice_ntuAfter]

/-! ### States that differ from another in reservations, calls, groups and notices -/

section Outcome

variable (res : LineNo → Option CallRef) (calls : List CallRecord) (groups : Vector HuntGroup 64) (ns : List Notice) (s : State)

@[simp] theorem outcome_pending : (outcome res calls groups ns s).pending = s.pending := by simp only [outcome, raiseAll_pending]
@[simp] theorem outcome_ptu : (outcome res calls groups ns s).ptu = s.ptu := by simp only [outcome, raiseAll_ptu]
@[simp] theorem outcome_pctl : (outcome res calls groups ns s).pctl = s.pctl := by simp only [outcome, raiseAll_pctl]
@[simp] theorem outcome_ctp : (outcome res calls groups ns s).ctp = s.ctp := by simp only [outcome, raiseAll_ctp]
@[simp] theorem outcome_amon : (outcome res calls groups ns s).amon = s.amon := by simp only [outcome, raiseAll_amon]
@[simp] theorem outcome_zos : (outcome res calls groups ns s).zos = s.zos := by simp only [outcome, raiseAll_zos]
@[simp] theorem outcome_rqu : (outcome res calls groups ns s).rqu = s.rqu := by simp only [outcome, raiseAll_rqu]
@[simp] theorem outcome_calls : (outcome res calls groups ns s).deng.calls = calls := rfl
@[simp] theorem outcome_groups : (outcome res calls groups ns s).deng.groups = groups := rfl
@[simp] theorem outcome_permissions : (outcome res calls groups ns s).deng.permissions = s.deng.permissions := rfl
@[simp] theorem outcome_parks : (outcome res calls groups ns s).deng.parks = s.deng.parks := rfl
@[simp] theorem outcome_confirmWindow : (outcome res calls groups ns s).deng.confirmWindow = s.deng.confirmWindow := rfl

@[simp] theorem outcome_shadow (k : LineNo) :
    (outcome res calls groups ns s).lmon.shadows.get k = { s.lmon.shadows.get k with reservation := res k } :=
  get_ofFn _ k

theorem outcome_eq : outcome res calls groups ns s = { s with
    lmon := { s.lmon with shadows := Vector.ofFn fun k => { s.lmon.shadows.get k with reservation := res k } }
    deng := { s.deng with calls := calls, groups := groups }
    ntu := ntuAfter ns s.ptu s.ntu } := by
  simp only [outcome, raiseAll_ntuAfter]

@[simp] theorem outcome_outcome (res' : LineNo → Option CallRef) (calls' : List CallRecord) (groups' : Vector HuntGroup 64)
    (ns' : List Notice) :
    outcome res' calls' groups' ns' (outcome res calls groups ns s) = outcome res' calls' groups' (ns ++ ns') s := by
  simp only [outcome_eq, get_ofFn, ntuAfter_ntuAfter]

end Outcome

theorem vector_ext_get {α : Type} {n : Nat} {u v : Vector α n} (h : ∀ i : Fin n, u.get i = v.get i) : u = v :=
  Vector.ext fun i hi => h ⟨i, hi⟩

/-- A state is an outcome of itself. -/
@[simp] theorem outcome_self (s : State) : outcome (unreserved [] s) s.deng.calls s.deng.groups [] s = s := by
  have hs : (Vector.ofFn fun k => { s.lmon.shadows.get k with reservation := unreserved [] s k }) = s.lmon.shadows :=
    vector_ext_get fun k => by simp [unreserved]
  rw [outcome_eq, hs]
  rfl

@[simp] theorem raiseNotice_outcome (n : Notice) (res : LineNo → Option CallRef) (calls : List CallRecord)
    (groups : Vector HuntGroup 64) (ns : List Notice) (s : State) :
    raiseNotice n (outcome res calls groups ns s) = outcome res calls groups (ns ++ [n]) s := by
  simp only [outcome_eq, raiseNotice_ntuAfter, ntuAfter_ntuAfter]

@[simp] theorem raiseAll_outcome (ms : List Notice) (res : LineNo → Option CallRef) (calls : List CallRecord)
    (groups : Vector HuntGroup 64) (ns : List Notice) (s : State) :
    raiseAll ms (outcome res calls groups ns s) = outcome res calls groups (ns ++ ms) s := by
  simp only [outcome_eq, raiseAll_ntuAfter, ntuAfter_ntuAfter]

@[simp] theorem modCall_outcome (r : CallRef) (f : CallRecord → CallRecord) (res : LineNo → Option CallRef)
    (calls : List CallRecord) (groups : Vector HuntGroup 64) (ns : List Notice) (s : State) :
    modCall r f (outcome res calls groups ns s)
      = outcome res (calls.map fun c => if c.ref = r then f c else c) groups ns s := by
  simp only [outcome_eq, modCall]

@[simp] theorem modGroup_outcome (g : GroupNo) (f : HuntGroup → HuntGroup) (res : LineNo → Option CallRef)
    (calls : List CallRecord) (groups : Vector HuntGroup 64) (ns : List Notice) (s : State) :
    modGroup g f (outcome res calls groups ns s) = outcome res calls (modAt groups g f) ns s := by
  simp only [outcome_eq, modGroup]

@[simp] theorem removeCall_outcome (r : CallRef) (res : LineNo → Option CallRef)
    (calls : List CallRecord) (groups : Vector HuntGroup 64) (ns : List Notice) (s : State) :
    removeCall r (outcome res calls groups ns s) = outcome res (calls.filter (·.ref ≠ r)) groups ns s := by
  simp only [outcome_eq, removeCall]

@[simp] theorem addCall_outcome (c : CallRecord) (res : LineNo → Option CallRef)
    (calls : List CallRecord) (groups : Vector HuntGroup 64) (ns : List Notice) (s : State) :
    addCall c (outcome res calls groups ns s) = outcome res (calls ++ [c]) groups ns s := by
  simp only [outcome_eq, addCall]

/-- A line's reservation is set. -/
@[simp] theorem reserve_outcome (l : LineNo) (r : Option CallRef) (res : LineNo → Option CallRef)
    (calls : List CallRecord) (groups : Vector HuntGroup 64) (ns : List Notice) (s : State) :
    modShadow l (fun x => { x with reservation := r }) (outcome res calls groups ns s)
      = outcome (fun k => if k = l then r else res k) calls groups ns s := by
  have hs : modAt (Vector.ofFn fun k => { s.lmon.shadows.get k with reservation := res k }) l
        (fun x => { x with reservation := r })
      = Vector.ofFn fun k => { s.lmon.shadows.get k with reservation := if k = l then r else res k } :=
    vector_ext_get fun k => by
      by_cases hk : k = l <;> simp [hk]
  simp only [outcome_eq, modShadow, hs]

theorem clearReservations_cons (l : LineNo) (ls : List LineNo) (s : State) :
    clearReservations (l :: ls) s = clearReservations ls (modShadow l (fun x => { x with reservation := none }) s) := rfl

@[simp] theorem clearReservations_outcome (ls : List LineNo) (res : LineNo → Option CallRef)
    (calls : List CallRecord) (groups : Vector HuntGroup 64) (ns : List Notice) (s : State) :
    clearReservations ls (outcome res calls groups ns s)
      = outcome (fun k => if k ∈ ls then none else res k) calls groups ns s := by
  induction ls generalizing res with
  | nil => simp [clearReservations]
  | cons l ls ih =>
    rw [clearReservations_cons, reserve_outcome, ih]
    congr 1
    funext k
    by_cases h1 : k ∈ ls <;> by_cases h2 : k = l <;> simp [h1, h2]

/-! ### The floor condition of a group without a floor-ring target (R46) -/

theorem floorCondition_of_noTarget {g : GroupNo} {cs : List CallRecord} {k : HuntGroup}
    (h : k.config.floorTarget = none) : floorCondition g cs k = false := by
  simp [floorCondition, h]

/-- The group does not ring, over whatever calls its condition is evaluated. -/
theorem FloorOff.evalOver {g : GroupNo} {s : State} (h : FloorOff g s) (cs : List CallRecord) : evalFloorOver cs g s = s := by
  simp [evalFloorOver, floorCondition_of_noTarget h.target, h.off]

theorem FloorOff.eval {g : GroupNo} {s : State} (h : FloorOff g s) : evalFloor g s = s := h.evalOver _

theorem FloorOff.of_groups {g : GroupNo} {s t : State} (h : FloorOff g s)
    (e : t.deng.groups.get g = s.deng.groups.get g) : FloorOff g t :=
  ⟨e ▸ h.target, e ▸ h.off⟩

end Sys2Proof.Machine
end

section
namespace Sys2Proof.Machine

/-! ### One call record among the others (R6) -/

/-- A call record is in use, and no other record holds its reference. -/
structure Holds (c : CallRecord) (s : State) : Prop where
  found : findCall c.ref s = some c
  only : ∀ d ∈ s.deng.calls, d.ref = c.ref → d = c

theorem mem_of_findCall {r : CallRef} {c : CallRecord} {s : State} (h : findCall r s = some c) : c ∈ s.deng.calls :=
  List.mem_of_find?_eq_some h

theorem findCall_eq_none {r : CallRef} {s : State} : findCall r s = none ↔ ∀ d ∈ s.deng.calls, d.ref ≠ r := by
  simp [findCall]

theorem Holds.mem {c : CallRecord} {s : State} (h : Holds c s) : c ∈ s.deng.calls := mem_of_findCall h.found

theorem find?_ref_of_mem {r : CallRef} {c : CallRecord} {calls : List CallRecord} (hc : c ∈ calls) (hr : c.ref = r)
    (only : ∀ d ∈ calls, d.ref = r → d = c) : calls.find? (fun d => d.ref = r) = some c := by
  cases hf : calls.find? (fun d => d.ref = r) with
  | none => exact absurd hr (by simpa using List.find?_eq_none.mp hf c hc)
  | some d => rw [only d (List.mem_of_find?_eq_some hf) (by simpa using List.find?_some hf)]

theorem mem_replaced {r : CallRef} {c d : CallRecord} {s : State} (h : d ∈ replaced r c s) :
    d = c ∨ d ∈ s.deng.calls ∧ d.ref ≠ r := by
  obtain ⟨e, he, rfl⟩ := List.mem_map.mp h
  by_cases hr : e.ref = r
  · simp [hr]
  · simp [hr, he]

theorem self_mem_replaced {r : CallRef} {c d : CallRecord} {s : State} (h : d ∈ s.deng.calls) (hr : d.ref = r) :
    c ∈ replaced r c s := List.mem_map.mpr ⟨d, h, by simp [hr]⟩

/-- The replacement is the one record of its reference. -/
theorem find?_replaced {r : CallRef} {c d : CallRecord} {s : State} (h : d ∈ s.deng.calls) (hd : d.ref = r) (hc : c.ref = r) :
    (replaced r c s).find? (fun d => d.ref = r) = some c := by
  refine find?_ref_of_mem (self_mem_replaced h hd) hc fun e he hr => ?_
  obtain rfl | ⟨-, hne⟩ := mem_replaced he
  · rfl
  · exact absurd hr hne

/-- An update of the record of a reference that was replaced. -/
theorem map_replaced {r : CallRef} {c : CallRecord} {s : State} (f : CallRecord → CallRecord) (hc : c.ref = r) :
    (replaced r c s).map (fun d => if d.ref = r then f d else d) = replaced r (f c) s := by
  simp only [replaced, List.map_map]
  refine List.map_congr_left fun d _ => ?_
  by_cases hr : d.ref = r <;> simp [hr, hc]

/-- An update of the one record of a reference is a replacement. -/
theorem Holds.map_eq {c : CallRecord} {s : State} (h : Holds c s) (f : CallRecord → CallRecord) :
    s.deng.calls.map (fun d => if d.ref = c.ref then f d else d) = replaced c.ref (f c) s := by
  refine List.map_congr_left fun d hd => ?_
  by_cases hr : d.ref = c.ref
  · simp only [h.only d hd hr]
  · simp only [if_neg hr]

theorem modCall_eq_outcome {c : CallRecord} {s : State} (h : Holds c s) (f : CallRecord → CallRecord) :
    modCall c.ref f s = outcome (unreserved [] s) (replaced c.ref (f c) s) s.deng.groups [] s := by
  conv_lhs => rw [← outcome_self s]
  rw [modCall_outcome, h.map_eq]

/-- A call that is not queued in a group before or after its replacement leaves the group's queue as it is. -/
theorem queuedIn_replaced {g : GroupNo} {r : CallRef} {c : CallRecord} {s : State} (hc : c.state ≠ .queued ∨ inGroup g c = false)
    (ho : ∀ d ∈ s.deng.calls, d.ref = r → d.state ≠ .queued ∨ inGroup g d = false) :
    queuedIn g (replaced r c s) = queuedIn g s.deng.calls := by
  unfold queuedIn replaced
  have hout : ∀ d : CallRecord, d.state ≠ .queued ∨ inGroup g d = false → (decide (d.state = .queued) && inGroup g d) = false := by
    rintro d (h | h) <;> simp [h]
  generalize s.deng.calls = calls at ho ⊢
  induction calls with
  | nil => rfl
  | cons d ds ih =>
    have ih := ih fun e he => ho e (List.mem_cons_of_mem d he)
    by_cases hr : d.ref = r
    · simp only [List.map_cons, if_pos hr, List.filter_cons, hout c hc, hout d (ho d (by simp) hr), ih]
      rfl
    · simp only [List.map_cons, if_neg hr, List.filter_cons, ih]

/-! ### No arbitration has a call to give a line to (R41) -/

theorem arbitrate_of_no_claims {l : LineNo} {s : State} (h : ∀ c ∈ s.deng.calls, claims l s c = false) : arbitrate l s = s := by
  have hq : s.deng.calls.filter (fun c => c.state = .queued && claims l s c) = [] :=
    List.filter_eq_nil_iff.mpr fun c hc => by simp [h c hc]
  have hj : s.deng.calls.find? (joinable l s) = none :=
    List.find?_eq_none.mpr fun c hc => by simp [joinable, h c hc]
  simp [arbitrate, hq, byPriority, hj]

theorem arbitrateAll_of_no_claims {ls : List LineNo} {s : State} (h : ∀ l ∈ ls, ∀ c ∈ s.deng.calls, claims l s c = false) :
    arbitrateAll ls s = s := by
  induction ls with
  | nil => rfl
  | cons l ls ih =>
    show arbitrateAll ls (arbitrate l s) = s
    rw [arbitrate_of_no_claims (h l (by simp)), ih fun k hk => h k (by simp [hk])]

@[simp] theorem arbitrateAll_nil (s : State) : arbitrateAll [] s = s := rfl

theorem claims_of_direct {l : LineNo} {s : State} {c : CallRecord} (h : c.hunt = none) : claims l s c = false := by
  simp [claims, h]

theorem claims_of_hunt {l : LineNo} {s : State} {c : CallRecord} {h : HuntPart} (hh : c.hunt = some h) :
    claims l s c = (!(s.deng.groups.get h.group).night && eligible h.group l s) := by
  simp [claims, hh]

/-! ### Freeing and deflecting a call (R9, R44) -/

theorem raiseWithdrawals_eq (why : WithdrawReason) (c : CallRecord) (s : State) :
    raiseWithdrawals why c s = raiseAll (withdrawals why c) s := rfl

@[simp] theorem outcome_raiseAll (ms ns : List Notice) (res : LineNo → Option CallRef) (calls : List CallRecord)
    (groups : Vector HuntGroup 64) (s : State) :
    outcome res calls groups ns (raiseAll ms s) = outcome res calls groups (ms ++ ns) s := by
  simp only [outcome_eq, raiseAll_ntuAfter, ntuAfter_ntuAfter]

@[simp] theorem unreserved_raiseAll (ls : List LineNo) (ns : List Notice) (s : State) :
    unreserved ls (raiseAll ns s) = unreserved ls s := by
  funext k; simp [unreserved]

theorem clear_unreserved (ls : List LineNo) (s : State) :
    (fun k => if k ∈ ls then none else unreserved [] s k) = unreserved ls s := by
  funext k; simp [unreserved]

theorem clearReservations_eq (ls : List LineNo) (s : State) :
    clearReservations ls s = outcome (unreserved ls s) s.deng.calls s.deng.groups [] s := by
  conv_lhs => rw [← outcome_self s]
  rw [clearReservations_outcome, clear_unreserved]

/-- What freeing a call of a group that does not ring does, before its lines are arbitrated (R9). -/
theorem freeCall_eq {c : CallRecord} {h : HuntPart} {s : State} (hc : findCall c.ref s = some c) (hh : c.hunt = some h)
    (hf : FloorOff h.group s) :
    freeCall c.ref s = arbitrateAll (reservedLines c)
      (outcome (unreserved (reservedLines c) s) (s.deng.calls.filter (·.ref ≠ c.ref)) s.deng.groups [] s) := by
  have off : FloorOff h.group (outcome (unreserved (reservedLines c) s) (s.deng.calls.filter (·.ref ≠ c.ref)) s.deng.groups [] s) :=
    hf.of_groups rfl
  simp only [freeCall, hc, hh, clearReservations_eq, removeCall_outcome, off.eval]

/-- A deflection in a group that does not ring, before the call's lines are arbitrated (R44). -/
theorem deflect_eq {c : CallRecord} {h k : HuntPart} {s : State} (duringHunt : Bool) (why : DeflectReason)
    (hc : findCall c.ref s = some c) (hh : c.hunt = some k) (hf : FloorOff k.group s) :
    deflect duringHunt c.ref h why s = (arbitrateAll (reservedLines c)
      (outcome (unreserved (reservedLines c) s) (s.deng.calls.filter (·.ref ≠ c.ref)) s.deng.groups
        (withdrawals .deflected c ++ if duringHunt then [] else [.deflect h.group h.hops.val why c.ref]) s),
      .ended h.group h.hops.val why) := by
  have hs : (if duringHunt then raiseAll (withdrawals .deflected c) s
        else raiseNotice (.deflect h.group h.hops.val why c.ref) (raiseAll (withdrawals .deflected c) s))
      = raiseAll (withdrawals .deflected c ++ if duringHunt then [] else [.deflect h.group h.hops.val why c.ref]) s := by
    cases duringHunt <;> simp [raiseAll_append, raiseAll_singleton]
  have hc' : ∀ ns, findCall c.ref (raiseAll ns s) = some c := fun ns => by simpa [findCall] using hc
  simp only [deflect, hc, raiseWithdrawals_eq, hs]
  rw [freeCall_eq (hc' _) hh (hf.of_groups (by simp))]
  simp

end Sys2Proof.Machine
end

section
namespace Sys2Proof.Machine

/-! ### Where the distribution of a call leads (R32, R37) -/

/-- With nothing to offer and room in the queue, a call queues. -/
theorem decision_queue {withheld : List LineNo} {h : HuntPart} {s : State}
    (hn : if (s.deng.groups.get h.group).night = true then (s.deng.groups.get h.group).config.overflowTarget = none
      else offerable withheld h.group s = [])
    (hr : (queueOf h.group s).length < (s.deng.groups.get h.group).config.capacity) : decision withheld h s = .queue := by
  have room : queueHasRoom h.group s = true := by simpa [queueHasRoom] using hr
  by_cases night : (s.deng.groups.get h.group).night = true
  · rw [if_pos night] at hn
    simp [decision, night, hn, room]
  · rw [if_neg night] at hn
    have none : (select withheld h.group h.tried s).1 = [] := by rw [select_fst, selectable_eq_nil.mpr hn, pickByMode_nil]
    simp [decision, night, none, room]

theorem decision_overflow {withheld : List LineNo} {h : HuntPart} {t : GroupNo} {s : State}
    (ht : (s.deng.groups.get h.group).config.overflowTarget = some t)
    (hd : (s.deng.groups.get h.group).night = false → offerable withheld h.group s = []
      ∧ (s.deng.groups.get h.group).config.capacity ≤ (queueOf h.group s).length) : decision withheld h s = .overflow t := by
  by_cases night : (s.deng.groups.get h.group).night = true
  · simp [decision, night, ht]
  · obtain ⟨he, hr⟩ := hd (by simpa using night)
    have none : (select withheld h.group h.tried s).1 = [] := by rw [select_fst, selectable_eq_nil.mpr he, pickByMode_nil]
    have room : queueHasRoom h.group s = false := by simpa [queueHasRoom] using hr
    simp [decision, night, none, room, ht]

theorem decision_turnAway {withheld : List LineNo} {h : HuntPart} {s : State}
    (hn : (s.deng.groups.get h.group).night = false → offerable withheld h.group s = [])
    (ht : (s.deng.groups.get h.group).config.overflowTarget = none)
    (hr : (s.deng.groups.get h.group).config.capacity ≤ (queueOf h.group s).length) : decision withheld h s = .turnAway := by
  have room : queueHasRoom h.group s = false := by simpa [queueHasRoom] using hr
  by_cases night : (s.deng.groups.get h.group).night = true
  · simp [decision, night, ht, room]
  · have none : (select withheld h.group h.tried s).1 = [] := by
      rw [select_fst, selectable_eq_nil.mpr (hn (by simpa using night)), pickByMode_nil]
    simp [decision, night, none, room, ht]

theorem decision_offer {withheld : List LineNo} {h : HuntPart} {s : State} (hn : (s.deng.groups.get h.group).night = false)
    (hs : (select withheld h.group h.tried s).1 ≠ []) :
    decision withheld h s = .offer (select withheld h.group h.tried s).1 (select withheld h.group h.tried s).2 := by
  simp [decision, hn, hs]

/-- Lines that a call has let go are withheld, so they offer nothing that was not offered before. -/
theorem offerable_outcome {withheld : List LineNo} {g : GroupNo} {s : State} {res : LineNo → Option CallRef}
    (hres : ∀ k, k ∉ withheld → res k = (s.lmon.shadows.get k).reservation) (calls : List CallRecord) (ns : List Notice)
    (h : ∀ i, eligibleAt g i s = false) : offerable withheld g (outcome res calls s.deng.groups ns s) = [] := by
  refine List.filter_eq_nil_iff.mpr fun i hi hw => ?_
  rw [mem_eligibles, eligibleAt_iff] at hi
  obtain ⟨he, hin, hl⟩ := hi
  simp only [outcome_groups] at he hin hl hw
  have hl' : lineFree ((s.deng.groups.get g).members.get i).line s = true := by
    simpa [lineFree, hres _ (of_decide_eq_true hw)] using hl
  exact absurd (eligibleAt_iff.mpr ⟨he, hin, hl'⟩) (by simp [h i])

theorem offerable_of_not_eligible {withheld : List LineNo} {g : GroupNo} {s : State} (h : ∀ i, eligibleAt g i s = false) :
    offerable withheld g s = [] :=
  List.filter_eq_nil_iff.mpr fun i hi => absurd (mem_eligibles.mp hi) (by simp [h i])

/-! ### Leaving a group and arriving at another (R37, R43) -/

theorem secondsTimer_eq (n : Nat) (s : State) :
    secondsTimer n s = if n = 0 then none else some (s.ptu.clock + 1000 * n) := rfl

/-- The call record as an overflow brings it to a group: without lines, one hop more. -/
def overflownCall (c : CallRecord) (h : HuntPart) (g : GroupNo) (s : State) : CallRecord :=
  { c with state := .offered, ringing := [], reservations := [], hunt := some (arrived g (nextHop h.hops) h s) }

@[simp] theorem overflownCall_ref (c : CallRecord) (h : HuntPart) (g : GroupNo) (s : State) :
    (overflownCall c h g s).ref = c.ref := rfl

/-- The state with the call just arrived by an overflow at a group that has not distributed it yet. -/
def overflownState (c : CallRecord) (h : HuntPart) (g : GroupNo) (s : State) : State :=
  outcome (unreserved (reservedLines c) s) (replaced c.ref (overflownCall c h g s) s) s.deng.groups
    (withdrawals .overflow c ++ [.overflow h.group g (nextHop h.hops).val c.ref]) s

theorem arrived_overflowAt (g : GroupNo) (s : State) :
    (if (s.deng.groups.get g).config.overflowTarget.isSome then secondsTimer (s.deng.groups.get g).config.overflowWait s else none)
      = if (s.deng.groups.get g).config.overflowTarget.isSome ∧ (s.deng.groups.get g).config.overflowWait ≠ 0 then
          some (s.ptu.clock + 1000 * (s.deng.groups.get g).config.overflowWait) else none := by
  rw [secondsTimer_eq]
  by_cases ht : (s.deng.groups.get g).config.overflowTarget.isSome <;>
    by_cases hw : (s.deng.groups.get g).config.overflowWait = 0 <;> simp [ht, hw]

/-- An arrival sets the HUNT fields as R37 and R45 say. -/
theorem beginArrival_eq (r : CallRef) (g : GroupNo) (s : State) :
    beginArrival r g s = modCall r (fun c => { c with
      hunt := c.hunt.map fun h => { arrived g h.hops h s with noAnswerAt := h.noAnswerAt } }) s := by
  simp only [beginArrival, arrived_overflowAt, modHunt]
  simp only [secondsTimer_eq, arrived]

theorem arrived_congr {s t : State} (g : GroupNo) (hops : Fin 5) (h : HuntPart)
    (hg : t.deng.groups.get g = s.deng.groups.get g) (hp : t.ptu = s.ptu) : arrived g hops h t = arrived g hops h s := by
  simp only [arrived, hg, hp]

/-- Steps 2 to 7 of an overflow (R43): the call arrives at the target. -/
theorem beginArrival_leaveGroup {c : CallRecord} {h : HuntPart} {s : State} (hc : Holds c s) (hh : c.hunt = some h)
    (hf : FloorOff h.group s) (g : GroupNo) :
    beginArrival c.ref g (leaveGroup c.ref g s) = overflownState c h g s := by
  have off : ∀ res calls ns, FloorOff h.group (outcome res calls s.deng.groups ns s) := fun _ _ _ => hf.of_groups rfl
  have hleft : leaveGroup c.ref g s = outcome (unreserved (reservedLines c) s)
      (replaced c.ref { c with
        state := .offered, ringing := [], reservations := []
        hunt := some { h with hops := nextHop h.hops, noAnswerAt := none, overflowAt := none, floorAt := none } } s)
      s.deng.groups (withdrawals .overflow c ++ [.overflow h.group g (nextHop h.hops).val c.ref]) s := by
    simp only [leaveGroup, hc.found, hh, raiseWithdrawals_eq, clearReservations_eq, outcome_raiseAll, unreserved_raiseAll,
      raiseAll_deng, modCall_outcome, modHunt, hc.map_eq, map_replaced, raiseNotice_outcome, (off _ _ _).evalOver,
      List.append_nil, Option.map_some]
  rw [hleft]
  simp only [beginArrival_eq, modCall_outcome, map_replaced, Option.map_some, arrived, outcome_groups, outcome_ptu]
  rfl

theorem huntOf_eq {c : CallRecord} {r : CallRef} {s : State} (h : findCall r s = some c) : huntOf r s = c.hunt := by
  simp [huntOf, h]

theorem linesOf_eq {c : CallRecord} {r : CallRef} {s : State} (h : findCall r s = some c) : linesOf r s = reservedLines c := by
  simp [linesOf, h]

theorem findCall_outcome (r : CallRef) (res : LineNo → Option CallRef) (calls : List CallRecord) (groups : Vector HuntGroup 64)
    (ns : List Notice) (s : State) :
    findCall r (outcome res calls groups ns s) = calls.find? fun c => c.ref = r := rfl

/-- The overflown call is in use at the target. -/
theorem holds_overflown {c : CallRecord} {s : State} (hc : Holds c s) (h : HuntPart) (g : GroupNo) :
    Holds (overflownCall c h g s) (overflownState c h g s) := by
  refine ⟨(findCall_outcome _ _ _ _ _ _).trans (find?_replaced hc.mem rfl rfl), fun d hd hr => ?_⟩
  obtain rfl | ⟨-, hne⟩ := mem_replaced hd
  · rfl
  · exact absurd hr hne

/-- An overflow whose call comes to rest, or is turned away, at the target. -/
theorem overflowN_ends {c : CallRecord} {h : HuntPart} {s : State} (hc : Holds c s) (hh : c.hunt = some h)
    (hf : FloorOff h.group s) {duringHunt : Bool} {n : Nat} {withheld : List LineNo} {g : GroupNo} {d : Decision}
    (hd : decision (withheld ++ reservedLines c) (arrived g (nextHop h.hops) h s) (overflownState c h g s) = d)
    (hne : ∀ t, d ≠ .overflow t) :
    overflowN duringHunt (n + 1) withheld c.ref g s
      = (arbitrateAll (reservedLines c)
          (carryOut duringHunt c.ref (arrived g (nextHop h.hops) h s) d (overflownState c h g s)).1,
        (carryOut duringHunt c.ref (arrived g (nextHop h.hops) h s) d (overflownState c h g s)).2) := by
  have hunt1 : huntOf c.ref (overflownState c h g s) = some (arrived g (nextHop h.hops) h s) :=
    huntOf_eq (holds_overflown hc h g).found
  simp only [overflowN, beginArrival_leaveGroup hc hh hf, linesOf_eq hc.found, hunt1, hd]

/-- An overflow whose call overflows on from the target. -/
theorem overflowN_again {c : CallRecord} {h : HuntPart} {s : State} (hc : Holds c s) (hh : c.hunt = some h)
    (hf : FloorOff h.group s) {duringHunt : Bool} {n : Nat} {withheld : List LineNo} {g t : GroupNo}
    (hd : decision (withheld ++ reservedLines c) (arrived g (nextHop h.hops) h s) (overflownState c h g s) = .overflow t) :
    overflowN duringHunt (n + 1) withheld c.ref g s
      = (arbitrateAll (reservedLines c) (overflowN duringHunt n (withheld ++ reservedLines c) c.ref t (overflownState c h g s)).1,
        (overflowN duringHunt n (withheld ++ reservedLines c) c.ref t (overflownState c h g s)).2) := by
  have hunt1 : huntOf c.ref (overflownState c h g s) = some (arrived g (nextHop h.hops) h s) :=
    huntOf_eq (holds_overflown hc h g).found
  simp only [overflowN, beginArrival_leaveGroup hc hh hf, linesOf_eq hc.found, hunt1, hd]

/-! ### Queueing (R38) -/

/-- The place of a call in a group's queue among some call records, the head being 1. -/
def placeIn (r : CallRef) (g : GroupNo) (calls : List CallRecord) : Nat := (byPriority (queuedIn g calls)).findIdx (·.ref = r) + 1

theorem queuePosition_eq (r : CallRef) (g : GroupNo) (s : State) : queuePosition r g s = placeIn r g s.deng.calls := rfl

/-- The record of a call once it has queued. -/
def queuedCall (c : CallRecord) : CallRecord :=
  { c with state := .queued, hunt := c.hunt.map fun h => { h with noAnswerAt := none } }

/-- A call that queues: its record, QUEUED with its place, and then the floor condition. -/
theorem queueCall_eq {c : CallRecord} {s : State} (hc : Holds c s) (g : GroupNo) :
    queueCall c.ref g s = evalFloor g (outcome (unreserved [] s) (replaced c.ref (queuedCall c) s) s.deng.groups
      [.queued g (placeIn c.ref g (replaced c.ref (queuedCall c) s)) c.ref] s) := by
  have h1 : modHunt c.ref (fun h => { h with noAnswerAt := none }) (modCall c.ref (fun c => { c with state := .queued }) s)
      = outcome (unreserved [] s) (replaced c.ref (queuedCall c) s) s.deng.groups [] s := by
    simp only [modHunt, modCall_eq_outcome hc, modCall_outcome, map_replaced]
    rfl
  simp only [queueCall, h1, queuePosition_eq, outcome_calls, raiseNotice_outcome, List.nil_append]

end Sys2Proof.Machine
end

section
namespace Sys2Proof.Machine

/-! ### An overflow that comes to rest in a queue, and one that has no hop left (R43) -/

@[simp] theorem unreserved_outcome (res : LineNo → Option CallRef) (calls : List CallRecord) (groups : Vector HuntGroup 64)
    (ns : List Notice) (s : State) : unreserved [] (outcome res calls groups ns s) = res := by
  funext k; simp [unreserved]

/-- Only notices were raised. -/
theorem outcome_notices (ns : List Notice) (s : State) :
    outcome (unreserved [] s) s.deng.calls s.deng.groups ns s = raiseAll ns s := by
  conv_rhs => rw [← outcome_self s]
  rw [raiseAll_outcome, List.nil_append]

theorem replaced_outcome {r : CallRef} {c d : CallRecord} (hd : d.ref = r) (res : LineNo → Option CallRef)
    (groups : Vector HuntGroup 64) (ns : List Notice) (s : State) :
    replaced r c (outcome res (replaced r d s) groups ns s) = replaced r c s :=
  map_replaced (fun _ => c) hd

theorem inGroup_iff {g : GroupNo} {c : CallRecord} {h : HuntPart} (hh : c.hunt = some h) : inGroup g c = true ↔ h.group = g := by
  simp [inGroup, hh]

/-- The queue of a group does not change when a call that is not queued there overflows. -/
theorem queueOf_overflown {c : CallRecord} {h : HuntPart} {g x : GroupNo} {s : State} (hc : Holds c s) (hh : c.hunt = some h)
    (hne : c.state ≠ .queued ∨ h.group ≠ x) : queueOf x (overflownState c h g s) = queueOf x s := by
  have out : ∀ d ∈ s.deng.calls, d.ref = c.ref → d.state ≠ .queued ∨ inGroup x d = false := fun d hd hr => by
    rw [hc.only d hd hr]
    exact hne.imp id fun e => by simpa [inGroup, hh] using e
  rw [queueOf, queueOf, overflownState, outcome_calls, queuedIn_replaced (.inl (by simp [overflownCall])) out]

theorem offerable_overflown {withheld : List LineNo} {c : CallRecord} {h : HuntPart} {g x : GroupNo} {s : State}
    (hn : ∀ i, eligibleAt x i s = false) : offerable (withheld ++ reservedLines c) x (overflownState c h g s) = [] :=
  offerable_outcome (fun k hk => by simp_all [unreserved]) _ _ hn

theorem carryOut_queue (duringHunt : Bool) (r : CallRef) (h : HuntPart) (s : State) :
    carryOut duringHunt r h .queue s = (queueCall r h.group s, .resting) := rfl

@[simp] theorem arrived_group (g : GroupNo) (hops : Fin 5) (h : HuntPart) (s : State) : (arrived g hops h s).group = g := rfl

/-- A call overflows into a group that can only queue it, before the lines it let go are arbitrated. -/
theorem overflowN_queues {c : CallRecord} {h : HuntPart} {g : GroupNo} {s : State} (hc : Holds c s) (hh : c.hunt = some h)
    (hf : FloorOff h.group s) (hg : FloorOff g s) (hq : CanOnlyQueue g s) (hne : c.state ≠ .queued ∨ h.group ≠ g)
    (duringHunt : Bool) (n : Nat) (withheld : List LineNo) :
    overflowN duringHunt (n + 1) withheld c.ref g s =
      (arbitrateAll (reservedLines c) (outcome (unreserved (reservedLines c) s)
        (replaced c.ref (queuedCall (overflownCall c h g s)) s) s.deng.groups
        (withdrawals .overflow c ++ [.overflow h.group g (nextHop h.hops).val c.ref,
          .queued g (placeIn c.ref g (replaced c.ref (queuedCall (overflownCall c h g s)) s)) c.ref]) s),
      .resting) := by
  have hd : decision (withheld ++ reservedLines c) (arrived g (nextHop h.hops) h s) (overflownState c h g s) = .queue := by
    refine decision_queue ?_ ?_
    · show if (s.deng.groups.get g).night = true then (s.deng.groups.get g).config.overflowTarget = none
        else offerable (withheld ++ reservedLines c) g (overflownState c h g s) = []
      have hn := hq.noOffer
      split
      · next night => exact (if_pos night).mp hn
      · next day => exact offerable_overflown ((if_neg day).mp hn)
    · show (queueOf g (overflownState c h g s)).length < (s.deng.groups.get g).config.capacity
      rw [queueOf_overflown hc hh hne]
      exact hq.room
  rw [overflowN_ends hc hh hf hd (by simp)]
  have off : ∀ res calls ns, FloorOff g (outcome res calls s.deng.groups ns s) := fun _ _ _ => hg.of_groups rfl
  have hqueue := queueCall_eq (holds_overflown hc h g) g
  rw [overflownCall_ref] at hqueue
  rw [carryOut_queue, arrived_group, hqueue]
  simp only [overflownState, unreserved_outcome, outcome_groups, outcome_outcome,
    replaced_outcome (overflownCall_ref c h g s), (off _ _ _).eval, List.append_assoc, List.cons_append, List.nil_append]

/-- No arbitration takes a line that an overflow or a deflection lets go, where the call has none or is alone. -/
theorem arbitrateAll_of_alone {ls : List LineNo} {r : CallRef} {s t : State} (h : Alone r s)
    (ht : ∀ d ∈ t.deng.calls, (d ∈ s.deng.calls ∧ d.ref ≠ r) ∨ ∀ l ∈ ls, claims l t d = false) : arbitrateAll ls t = t :=
  arbitrateAll_of_no_claims fun l hl d hd => by
    obtain ⟨hm, hne⟩ | hc := ht d hd
    · exact claims_of_direct (h d hm hne)
    · exact hc l hl

/-- An overflow as R43 and R44 describe it, where nothing else takes part. -/
theorem overflown_of_overflowCall {c : CallRecord} {h : HuntPart} {s : State} (hc : findCall c.ref s = some c)
    (hh : c.hunt = some h) (g : GroupNo) : Overflown c h g s (overflowCall c.ref h g s) := by
  intro hf
  refine ⟨?_, fun hops lines => ?_⟩
  · intro hops only hg hq hne lines c1 place
    have hn : hopsLeft h = (3 - h.hops.val) + 1 := by simp only [hopsLeft, Config.hopLimit]; omega
    have hnext : nextHop h.hops = Fin.ofNat 5 (h.hops.val + 1) := by simp [nextHop, hops]
    have hval : (Fin.ofNat 5 (h.hops.val + 1)).val = h.hops.val + 1 := Nat.mod_eq_of_lt (by omega)
    have hc1 : queuedCall (overflownCall c h g s) = c1 := by simp only [queuedCall, overflownCall, hnext]; rfl
    rw [overflowCall, hn, overflowN_queues ⟨hc, only⟩ hh hf hg hq hne, hc1, hnext, hval]
    dsimp only
    obtain none | ⟨alone, away⟩ := lines
    · simp only [reservedLines, none, List.map_nil]; rfl
    · refine arbitrateAll_of_alone alone fun d hd => ?_
      refine (mem_replaced hd).symm.imp id ?_
      rintro rfl l hl
      rw [claims_of_hunt (h := arrived g (Fin.ofNat 5 (h.hops.val + 1)) h s) rfl]
      show (!(s.deng.groups.get g).night && eligible g l _) = false
      obtain night | nopos := away
      · simp [night]
      · obtain ⟨x, hx, rfl⟩ := List.mem_map.mp hl
        simp [eligible, nopos x hx]
  · have hn : hopsLeft h = 0 := by simp [hopsLeft, Config.hopLimit, hops]
    rw [overflowCall, hn]
    simp only [overflowN, huntOf_eq hc, hh]
    rw [deflect_eq false .hops hc hh hf]
    have hv : h.hops.val = 4 := by rw [hops]; rfl
    simp only [hv]
    obtain none | alone := lines
    · simp only [reservedLines, none, List.map_nil]; rfl
    · exact arbitrateAll_of_alone alone fun d hd => .inl (by simpa using hd)

theorem dueCall_eq {c : CallRecord} {h : HuntPart} {s : State} {timer : HuntPart → Option Nat} {e : Nat}
    (hc : findCall c.ref s = some c) (hh : c.hunt = some h) (ht : timer h = some e) (he : e ≤ s.ptu.clock) :
    dueCall c.ref timer s = some (c, h) := by
  simp [dueCall, hc, hh, expired, ht, he]

/-- Settles O47: the expiry finds the call, and the overflow of a call into a group is what `overflown_of_overflowCall` says. -/
theorem callTimersExpire : Obligations.CallTimersExpire := by
  intro s c h e hc hh he
  refine ⟨fun g ht hg => ?_, fun ht hg => ?_, fun ht => ?_⟩
  · refine ⟨_, ?_, overflown_of_overflowCall hc hh g⟩
    show execOverflowWaitExpiry c.ref s = _
    simp only [execOverflowWaitExpiry, dueCall_eq (timer := (·.overflowAt)) hc hh ht he, hg]
  · show execOverflowWaitExpiry c.ref s = _
    simp only [execOverflowWaitExpiry, dueCall_eq (timer := (·.overflowAt)) hc hh ht he, hg]
    rfl
  · show execFloorDelayExpiry c.ref s = _
    simp only [execFloorDelayExpiry, dueCall_eq (timer := (·.floorAt)) hc hh ht he]
    rfl

end Sys2Proof.Machine
end

section
namespace Sys2Proof.Machine

/-! ### Places in a queue (R38) -/

theorem callPriority_le (c : CallRecord) : callPriority c ≤ 3 := by
  unfold callPriority
  split <;> omega

/-- A queue in priority order holds the same calls. -/
theorem byPriority_perm (cs : List CallRecord) : (byPriority cs).Perm cs := by
  induction cs with
  | nil => exact .nil
  | cons c cs ih =>
    refine .trans ?_ (ih.cons c)
    have hp := callPriority_le c
    obtain h | h | h | h : callPriority c = 3 ∨ callPriority c = 2 ∨ callPriority c = 1 ∨ callPriority c = 0 := by omega
    · simp [byPriority, h]
    · simp [byPriority, h]
    · simpa [byPriority, h] using (List.perm_middle.append_left _).trans List.perm_middle
    · simpa [byPriority, h] using
        ((List.perm_middle.append_left _).append_left _ |>.trans (List.perm_middle.append_left _)).trans List.perm_middle

theorem findIdx_append_of_not {p : CallRecord → Bool} {ahead behind : List CallRecord} {c : CallRecord}
    (ha : ∀ q ∈ ahead, p q = false) (hc : p c = true) : (ahead ++ c :: behind).findIdx p = ahead.length := by
  rw [List.findIdx_append]
  have none : ¬ List.findIdx p ahead < ahead.length := by
    rw [List.findIdx_lt_length]
    simpa using ha
  simp [none, List.findIdx_cons, hc]

/-- The calls of one priority. -/
def withPriority (k : Nat) (cs : List CallRecord) : List CallRecord := cs.filter fun c => callPriority c = k

/-- The calls of a priority below a bound, by priority, highest first. -/
def belowPriority : Nat → List CallRecord → List CallRecord
  | 0, _ => []
  | m + 1, cs => withPriority m cs ++ belowPriority m cs

theorem byPriority_eq (cs : List CallRecord) : byPriority cs = belowPriority 4 cs := by
  simp [byPriority, belowPriority, withPriority]

theorem withPriority_insert (k : Nat) (before behind : List CallRecord) (c : CallRecord) :
    withPriority k (before ++ c :: behind)
      = if callPriority c = k then withPriority k before ++ c :: withPriority k behind else withPriority k (before ++ behind) := by
  by_cases h : callPriority c = k <;> simp [withPriority, h]

/-- The number of calls in a range of priorities grows with the range. -/
theorem length_filter_range (k m : Nat) (h : k ≤ m) (cs : List CallRecord) :
    (cs.filter fun q => k ≤ callPriority q ∧ callPriority q < m + 1).length
      = (withPriority m cs).length + (cs.filter fun q => k ≤ callPriority q ∧ callPriority q < m).length := by
  simp only [withPriority, ← List.countP_eq_length_filter]
  induction cs with
  | nil => rfl
  | cons c cs ih =>
    simp only [List.countP_cons, decide_eq_true_eq, ih]
    split_ifs <;> omega

theorem length_filter_empty (k m : Nat) (h : m ≤ k) (cs : List CallRecord) :
    (cs.filter fun q => k ≤ callPriority q ∧ callPriority q < m).length = 0 := by
  rw [List.length_eq_zero_iff, List.filter_eq_nil_iff]
  intro q _
  simp
  omega

/-- In priority order a call stands behind those of higher priority, and behind those of its own that are older. -/
theorem belowPriority_insert (before behind : List CallRecord) (c : CallRecord) {m : Nat} (h : callPriority c < m) :
    ∃ ahead rest, belowPriority m (before ++ c :: behind) = ahead ++ c :: rest ∧ (∀ q ∈ ahead, q ∈ before ++ behind)
      ∧ ahead.length = (before.filter fun q => callPriority c ≤ callPriority q ∧ callPriority q < m).length
        + (behind.filter fun q => callPriority c + 1 ≤ callPriority q ∧ callPriority q < m).length := by
  induction m with
  | zero => omega
  | succ m ih =>
    rw [belowPriority, withPriority_insert, length_filter_range _ m (by omega)]
    by_cases hm : callPriority c = m
    · refine ⟨withPriority m before, withPriority m behind ++ belowPriority m (before ++ c :: behind), ?_, ?_, ?_⟩
      · rw [if_pos hm, List.append_assoc, List.cons_append]
      · exact fun q hq => List.mem_append_left _ (List.mem_of_mem_filter hq)
      · rw [length_filter_empty _ m (by omega), length_filter_empty _ (m + 1) (by omega)]
        rfl
    · obtain ⟨ahead, rest, e, ha, hl⟩ := ih (by omega)
      refine ⟨withPriority m (before ++ behind) ++ ahead, rest, ?_, ?_, ?_⟩
      · rw [if_neg hm, e, List.append_assoc]
      · exact fun q hq => (List.mem_append.mp hq).elim List.mem_of_mem_filter (ha q)
      · rw [length_filter_range _ m (by omega) behind, List.length_append, hl]
        simp only [withPriority, List.filter_append, List.length_append]
        omega

/-- The place of a call in its group's queue (R38): one more than the number of calls there of higher priority, or of its own
priority and older. -/
theorem placeIn_insert {g : GroupNo} {before behind : List CallRecord} {c : CallRecord}
    (h : ∀ q ∈ before ++ behind, q.ref ≠ c.ref) (hq : c.state = .queued) (hg : inGroup g c = true) :
    placeIn c.ref g (before ++ c :: behind)
      = ((queuedIn g before).filter fun q => callPriority c ≤ callPriority q).length
        + ((queuedIn g behind).filter fun q => callPriority c + 1 ≤ callPriority q).length + 1 := by
  have hc := callPriority_le c
  have bound : ∀ (k : Nat) (cs : List CallRecord), cs.filter (fun q => k ≤ callPriority q ∧ callPriority q < 4)
      = cs.filter fun q => k ≤ callPriority q := fun k cs =>
    List.filter_congr fun q _ => by have := callPriority_le q; simp; omega
  have split : queuedIn g (before ++ c :: behind) = queuedIn g before ++ c :: queuedIn g behind := by
    simp [queuedIn, hq, hg]
  obtain ⟨ahead, rest, e, ha, hl⟩ := belowPriority_insert (queuedIn g before) (queuedIn g behind) c (m := 4) (by omega)
  have other : ∀ q ∈ ahead, decide (q.ref = c.ref) = false := fun q hqa => decide_eq_false <| h q <| by
    exact (List.mem_append.mp (ha q hqa)).elim (fun m => List.mem_append_left _ (List.mem_of_mem_filter m))
      fun m => List.mem_append_right _ (List.mem_of_mem_filter m)
  rw [placeIn, split, byPriority_eq, e, findIdx_append_of_not other (by simp), hl, bound, bound]

end Sys2Proof.Machine
end

section
namespace Sys2Proof.Machine

/-! ### A new HUNT call (R47) -/

/-- The HUNT fields with which HUNT takes a call into use. -/
def newHunt (g : GroupNo) (priority : Fin 4) (caller : Option LineNo) : HuntPart :=
  ⟨g, 0, priority, caller, [], false, none, none, none⟩

/-- The record of a HUNT call that has arrived at its group and is not distributed yet. -/
def newCall (r : CallRef) (g : GroupNo) (priority : Fin 4) (caller : Option LineNo) (s : State) : CallRecord :=
  ⟨r, .offered, [], [], some (arrived g 0 (newHunt g priority caller) s)⟩

theorem addCall_eq (c : CallRecord) (s : State) :
    addCall c s = outcome (unreserved [] s) (s.deng.calls ++ [c]) s.deng.groups [] s := by
  conv_lhs => rw [← outcome_self s]
  rw [addCall_outcome]

/-- No call record in use holds a reference. -/
def Unused (r : CallRef) (s : State) : Prop := ∀ d ∈ s.deng.calls, d.ref ≠ r

theorem unused_of_refHeld {r : CallRef} {s : State} (h : refHeld r s = false) : Unused r s := by
  simp only [refHeld, Bool.or_eq_false_iff, Option.isSome_eq_false_iff, Option.isNone_iff_eq_none] at h
  exact findCall_eq_none.mp h.1

theorem Unused.map_eq {r : CallRef} {s : State} (h : Unused r s) (f : CallRecord → CallRecord) :
    s.deng.calls.map (fun d => if d.ref = r then f d else d) = s.deng.calls :=
  (List.map_congr_left fun d hd => if_neg (h d hd)).trans (List.map_id _)

theorem Unused.map_append {r : CallRef} {s : State} (h : Unused r s) (f : CallRecord → CallRecord) {c : CallRecord}
    (hc : c.ref = r) : (s.deng.calls ++ [c]).map (fun d => if d.ref = r then f d else d) = s.deng.calls ++ [f c] := by
  rw [List.map_append, h.map_eq, List.map_singleton, if_pos hc]

theorem Unused.filter_append {r : CallRef} {s : State} (h : Unused r s) {c : CallRecord} (hc : c.ref = r) :
    (s.deng.calls ++ [c]).filter (·.ref ≠ r) = s.deng.calls := by
  rw [List.filter_append, List.filter_eq_self.mpr fun d hd => by simpa using h d hd]
  simp [hc]

theorem Unused.holds {c : CallRecord} {s t : State} (h : Unused c.ref s) (ht : t.deng.calls = s.deng.calls ++ [c]) :
    Holds c t := by
  have only : ∀ d ∈ t.deng.calls, d.ref = c.ref → d = c := fun d hd hr => by
    rw [ht] at hd
    obtain hd | hd := List.mem_append.mp hd
    · exact absurd hr (h d hd)
    · exact List.mem_singleton.mp hd
  exact ⟨find?_ref_of_mem (by rw [ht]; simp) rfl only, only⟩

/-- The new call arrives at its group before it is distributed. -/
theorem beginArrival_huntCall {r : CallRef} {s : State} (h : Unused r s) (g : GroupNo) (priority : Fin 4)
    (caller : Option LineNo) :
    beginArrival r g (addCall (huntCall r g priority caller) s)
      = outcome (unreserved [] s) (s.deng.calls ++ [newCall r g priority caller s]) s.deng.groups [] s := by
  rw [beginArrival_eq, addCall_eq, modCall_outcome, h.map_append _ rfl]
  rfl

/-- The state with one more call record, of which only the notices that its arrival raised are new. -/
def grown (c : CallRecord) (ns : List Notice) (s : State) : State :=
  outcome (unreserved [] s) (s.deng.calls ++ [c]) s.deng.groups ns s

theorem grown_eq (c : CallRecord) (ns : List Notice) (s : State) :
    grown c ns s = raiseAll ns { s with deng := { s.deng with calls := s.deng.calls ++ [c] } } := by
  show _ = raiseAll ns (addCall c s)
  rw [addCall_eq, raiseAll_outcome]
  rfl

@[simp] theorem grown_calls (c : CallRecord) (ns : List Notice) (s : State) :
    (grown c ns s).deng.calls = s.deng.calls ++ [c] := rfl

@[simp] theorem grown_groups (c : CallRecord) (ns : List Notice) (s : State) : (grown c ns s).deng.groups = s.deng.groups := rfl

@[simp] theorem grown_ptu (c : CallRecord) (ns : List Notice) (s : State) : (grown c ns s).ptu = s.ptu := outcome_ptu _ _ _ _ _

theorem grown_holds {c : CallRecord} {s : State} (h : Unused c.ref s) (ns : List Notice) : Holds c (grown c ns s) :=
  h.holds rfl

theorem placeHunt_eq {r : CallRef} {s : State} (h : Unused r s) (g : GroupNo) (priority : Fin 4) (caller : Option LineNo) :
    placeHunt r g priority caller s
      = ((distribute true [] r (grown (newCall r g priority caller s) [] s)).1,
        huntReply r (distribute true [] r (grown (newCall r g priority caller s) [] s)).2
          (distribute true [] r (grown (newCall r g priority caller s) [] s)).1) := by
  simp only [placeHunt, beginArrival_huntCall h]
  rfl

/-- The parameters of a HUNT of a valid new call. -/
structure ValidHunt (p : Params) (g : GroupNo) (caller : Option LineNo) (s : State) : Prop where
  ref : (BitVec.ofNat 16 (bits p.p0 0 16) : CallRef) ≠ 0
  group : bits p.p1 0 8 = g.val
  caller : if p.p2.getLsbD 31 = true then ∃ k : LineNo, caller = some k ∧ bits p.p2 0 16 = k.val else caller = none
  new : refHeld (BitVec.ofNat 16 (bits p.p0 0 16)) s = false
  room : s.deng.calls.length < 128

theorem ValidHunt.hunt_eq {p : Params} {g : GroupNo} {caller : Option LineNo} {s : State} (h : ValidHunt p g caller s) :
    hunt p s = placeHunt (BitVec.ofNat 16 (bits p.p0 0 16)) g (Fin.ofNat 4 (bits p.p1 16 2)) caller s := by
  have room : ¬ Config.callRecords ≤ s.deng.calls.length := Nat.not_le.mpr h.room
  have hc := h.caller
  rw [← bit] at hc
  simp only [hunt, h.group, groupParam_val, h.ref, h.new, room, if_false, Bool.false_eq_true, false_or]
  cases hb : bit p.p2 31 with
  | true =>
    rw [hb, if_pos rfl] at hc
    obtain ⟨k, rfl, hk⟩ := hc
    simp [hk, lineParam_val]
  | false =>
    rw [hb, if_neg Bool.false_ne_true] at hc
    simp [hc]

theorem exec_hunt {n : SlotNo} {s : State} (h : Served 0x01 n s) :
    exec .hunt s = .next (finishSlot n (hunt (s.rqu.slots.get n).snapshot (pointed n s)).2
      (hunt (s.rqu.slots.get n).snapshot (pointed n s)).1) :=
  congrArg Host.Outcome.next (command_of_served h hunt)

/-! ### A new call that queues (R37, R38) -/

/-- The new call is not queued yet, so the queues are as they were. -/
theorem queueOf_grown {c : CallRecord} (h : c.state ≠ .queued) (g : GroupNo) (ns : List Notice) (s : State) :
    queueOf g (grown c ns s) = queueOf g s := by
  simp [queueOf, grown, queuedIn, h]

theorem eligibleAt_grown (c : CallRecord) (g : GroupNo) (i : MemberPos) (ns : List Notice) (s : State) :
    eligibleAt g i (grown c ns s) = eligibleAt g i s := by
  simp only [eligibleAt, lineFree, grown, outcome_groups, outcome_shadow]
  simp [unreserved]

theorem select_grown (c : CallRecord) (w : List LineNo) (g : GroupNo) (tried : List MemberPos) (s : State) :
    select w g tried (grown c [] s) = select w g tried s := by
  rw [grown_eq]
  rfl

theorem CanOnlyQueue.decision_grown {c : CallRecord} {h : HuntPart} {s : State} (hq : CanOnlyQueue h.group s)
    (hc : c.state ≠ .queued) (ns : List Notice) : decision [] h (grown c ns s) = .queue := by
  refine decision_queue ?_ ?_
  · show if (s.deng.groups.get h.group).night = true then (s.deng.groups.get h.group).config.overflowTarget = none
      else offerable [] h.group (grown c ns s) = []
    have hn := hq.noOffer
    split
    · next night => exact (if_pos night).mp hn
    · next day => exact offerable_of_not_eligible fun i => (eligibleAt_grown c h.group i ns s).trans ((if_neg day).mp hn i)
  · rw [queueOf_grown hc]
    exact hq.room

/-- A new call's place in the queue that it joins: it is the youngest there. -/
theorem placeIn_newest {c : CallRecord} {g : GroupNo} {s : State} (h : Unused c.ref s) (hq : c.state = .queued)
    (hg : inGroup g c = true) :
    placeIn c.ref g (s.deng.calls ++ [c]) = ((queueOf g s).filter fun q => callPriority c ≤ callPriority q).length + 1 := by
  rw [placeIn_insert (by simpa using fun q hq => h q hq) hq hg, queueOf, ((byPriority_perm _).filter _).length_eq]
  simp [queuedIn]

/-- A new call that can only queue: its place, QUEUED, and then the floor condition. -/
theorem distribute_queues {c : CallRecord} {h : HuntPart} {s : State} (hr : Unused c.ref s) (hh : c.hunt = some h)
    (hc : c.state ≠ .queued) (hq : CanOnlyQueue h.group s) (duringHunt : Bool) :
    distribute duringHunt [] c.ref (grown c [] s)
      = (evalFloor h.group (grown (queuedCall c) [.queued h.group
          (((queueOf h.group s).filter fun q => callPriority c ≤ callPriority q).length + 1) c.ref] s), .resting) := by
  have hold := grown_holds hr []
  have hi : inGroup h.group (queuedCall c) = true := by simp [inGroup, queuedCall, hh]
  have hp : callPriority (queuedCall c) = callPriority c := by simp [callPriority, queuedCall, hh]
  have place := placeIn_newest (c := queuedCall c) (g := h.group) hr rfl hi
  have hrep : replaced c.ref (queuedCall c) (grown c [] s) = s.deng.calls ++ [queuedCall c] :=
    hr.map_append (fun _ => queuedCall c) rfl
  rw [hp] at place
  simp only [distribute, huntOf_eq hold.found, hh, hq.decision_grown hc, carryOut_queue]
  rw [queueCall_eq hold, hrep, show placeIn c.ref h.group _ = _ from place]
  simp only [grown, unreserved_outcome, outcome_groups, outcome_outcome, List.nil_append]

/-- What HUNT answers for a call that has come to rest in a queue. -/
theorem restingReply_queued {r : CallRef} {c : CallRecord} {h : HuntPart} {s : State} (hc : findCall r s = some c)
    (hh : c.hunt = some h) (hq : c.state = .queued) :
    restingReply r s = ⟨.ok, packed [(2, 0), (h.group.val, 8), (h.hops.val, 16)],
      packed [(placeIn r h.group s.deng.calls, 0)]⟩ := by
  simp [restingReply, hc, hh, hq, queuePosition_eq]

end Sys2Proof.Machine
end

section
namespace Sys2Proof.Machine

/-- The record of a new call that has queued at its arrival. -/
def newQueued (r : CallRef) (g : GroupNo) (priority : Fin 4) (caller : Option LineNo) (s : State) : CallRecord :=
  ⟨r, .queued, [], [], some (arrived g 0 (newHunt g priority caller) s)⟩

/-- The place of a new call of a priority: behind the queued calls of its priority and above. -/
def newPlace (g : GroupNo) (priority : Fin 4) (s : State) : Nat :=
  ((queueOf g s).filter fun c => priority.val ≤ callPriority c).length + 1

theorem placeIn_newQueued {r : CallRef} {s : State} (h : Unused r s) (g : GroupNo) (priority : Fin 4) (caller : Option LineNo) :
    placeIn r g (s.deng.calls ++ [newQueued r g priority caller s]) = newPlace g priority s :=
  placeIn_newest (c := newQueued r g priority caller s) h rfl ((inGroup_iff rfl).mpr rfl)

theorem distribute_newCall {r : CallRef} {g : GroupNo} {s : State} (h : Unused r s) (hq : CanOnlyQueue g s) (priority : Fin 4)
    (caller : Option LineNo) :
    distribute true [] r (grown (newCall r g priority caller s) [] s)
      = (evalFloor g (grown (newQueued r g priority caller s) [.queued g (newPlace g priority s) r] s), .resting) :=
  distribute_queues (c := newCall r g priority caller s) h rfl (by simp [newCall]) hq true

/-- What HUNT does with a call that can only queue in its group: its place, QUEUED, the floor condition, and the answer, which
reads the call's record as the evaluation leaves it. -/
theorem placeHunt_queues {r : CallRef} {g : GroupNo} {s t : State} (h : Unused r s) (hq : CanOnlyQueue g s) (priority : Fin 4)
    (caller : Option LineNo)
    (ht : evalFloor g (grown (newQueued r g priority caller s) [.queued g (newPlace g priority s) r] s) = t)
    (hcalls : t.deng.calls = s.deng.calls ++ [newQueued r g priority caller s]) :
    placeHunt r g priority caller s
      = (t, ⟨.ok, packed [(2, 0), (g.val, 8), (0, 16)], packed [(newPlace g priority s, 0)]⟩) := by
  have hold : Holds (newQueued r g priority caller s) t := h.holds hcalls
  have reply : restingReply r t = ⟨.ok, packed [(2, 0), (g.val, 8), (0, 16)], packed [(placeIn r g t.deng.calls, 0)]⟩ :=
    restingReply_queued (h := arrived g 0 (newHunt g priority caller) s) hold.found rfl rfl
  rw [placeHunt_eq h, distribute_newCall h hq, ht]
  simp only [huntReply, reply, hcalls, placeIn_newQueued h]

theorem queuedIn_eq (g : GroupNo) (k : Nat) (cs : List CallRecord) :
    (queuedIn g cs).filter (fun q => k ≤ callPriority q)
      = cs.filter fun q => q.state = .queued && k ≤ callPriority q && inGroup g q := by
  rw [queuedIn, List.filter_filter]
  refine List.filter_congr fun q _ => ?_
  cases decide (q.state = .queued) <;> cases inGroup g q <;> simp

/-- Settles O37: the call is the youngest of its queue, and a place counts the calls that go before. -/
theorem huntQueues : Obligations.HuntQueues := by
  refine ⟨?_, ?_⟩
  · intro n s g caller hs p r priority hr hg hc hnew hroom hf hq place c
    have valid : ValidHunt p g caller (pointed n s) := ⟨hr, hg, hc, hnew, hroom⟩
    have hq' : CanOnlyQueue g (pointed n s) := ⟨hq.noOffer, hq.room⟩
    have off : FloorOff g (grown c [.queued g place r] (pointed n s)) := hf.of_groups rfl
    have placed := placeHunt_queues (unused_of_refHeld valid.new) hq' priority caller off.eval rfl
    rw [exec_hunt hs, valid.hunt_eq, placed, grown_eq, raiseAll_singleton]
    rfl
  · intro s before after c h hcalls hrefs hq hh waits
    have hi : inGroup h.group c = true := by simp [inGroup, hh]
    have hprio : callPriority c = h.priority.val := by simp [callPriority, hh]
    have hw : ∀ (k : Nat) (cs : List CallRecord),
        ((queuedIn h.group cs).filter fun q => k ≤ callPriority q) = cs.filter (waits k) := fun k cs => queuedIn_eq _ k cs
    rw [queuePosition_eq, hcalls, placeIn_insert hrefs hq hi, hprio, hw, hw]

/-! ### A new call that is turned away or overflows (R43, R44) -/

theorem grown_reservation (c : CallRecord) (ns : List Notice) (s : State) : unreserved [] (grown c ns s) = unreserved [] s :=
  unreserved_outcome _ _ _ _ _

/-- A bare call that is deflected during its HUNT leaves nothing but the notices of its way. -/
theorem deflect_grown {r : CallRef} {h k : HuntPart} {s : State} (hr : Unused r s) (st : CallState) (ns : List Notice)
    (why : DeflectReason) (hf : FloorOff k.group s) :
    deflect true r h why (grown ⟨r, st, [], [], some k⟩ ns s) = (raiseAll ns s, .ended h.group h.hops.val why) := by
  have hold : Holds _ (grown ⟨r, st, [], [], some k⟩ ns s) := grown_holds hr ns
  have hd := deflect_eq (h := h) true why hold.found rfl (hf.of_groups (t := grown _ _ _) rfl)
  rw [show deflect true r h why _ = _ from hd]
  have hrem : (grown ⟨r, st, [], [], some k⟩ ns s).deng.calls.filter (fun d => d.ref ≠ r) = s.deng.calls := hr.filter_append rfl
  simp only [reservedLines, withdrawals, List.map_nil, arbitrateAll_nil, List.append_nil, if_true, hrem]
  rw [grown_reservation]
  simp only [grown, outcome_groups, outcome_outcome, List.append_nil, outcome_notices]

/-- The overflow of a bare call: one hop more, and OVERFLOW. -/
theorem overflownState_grown {r : CallRef} {h : HuntPart} {s : State} (hr : Unused r s) (st : CallState) (ns : List Notice)
    (g : GroupNo) :
    overflownState ⟨r, st, [], [], some h⟩ h g (grown ⟨r, st, [], [], some h⟩ ns s)
      = grown ⟨r, .offered, [], [], some (arrived g (nextHop h.hops) h s)⟩
          (ns ++ [.overflow h.group g (nextHop h.hops).val r]) s := by
  have hrep : ∀ c, replaced r c (grown ⟨r, st, [], [], some h⟩ ns s) = s.deng.calls ++ [c] := fun c =>
    hr.map_append (fun _ => c) rfl
  have harr : arrived g (nextHop h.hops) h (grown ⟨r, st, [], [], some h⟩ ns s) = arrived g (nextHop h.hops) h s :=
    arrived_congr _ _ _ rfl (grown_ptu _ _ _)
  simp only [overflownState, overflownCall, harr, reservedLines, withdrawals, List.map_nil, List.nil_append, hrep,
    grown_reservation]
  simp only [grown, outcome_groups, outcome_outcome]

theorem offerable_grown {c : CallRecord} {g : GroupNo} {s : State} (h : ∀ i, eligibleAt g i s = false) (ns : List Notice) :
    offerable [] g (grown c ns s) = [] :=
  offerable_of_not_eligible fun i => (eligibleAt_grown c g i ns s).trans (h i)

theorem TurnsAway.decision_grown {c : CallRecord} {h : HuntPart} {s : State} (ht : TurnsAway h.group s)
    (hc : c.state ≠ .queued) (ns : List Notice) : decision [] h (grown c ns s) = .turnAway := by
  refine decision_turnAway (fun day => offerable_grown (ht.noOffer day) ns) ht.noTarget ?_
  rw [queueOf_grown hc]
  exact ht.full

theorem Overflows.decision_grown {c : CallRecord} {h : HuntPart} {t : GroupNo} {s : State} (ho : Overflows h.group t s)
    (hc : c.state ≠ .queued) (ns : List Notice) : decision [] h (grown c ns s) = .overflow t := by
  refine decision_overflow ho.target fun day => ⟨offerable_grown (ho.day day).1 ns, ?_⟩
  rw [queueOf_grown hc]
  exact (ho.day day).2

/-- A record of a HUNT call without lines that is neither queued nor offered yet. -/
def bareCall (r : CallRef) (h : HuntPart) : CallRecord := ⟨r, .offered, [], [], some h⟩

theorem newCall_eq (r : CallRef) (g : GroupNo) (priority : Fin 4) (caller : Option LineNo) (s : State) :
    newCall r g priority caller s = bareCall r (arrived g 0 (newHunt g priority caller) s) := rfl

@[simp] theorem bareCall_ref (r : CallRef) (h : HuntPart) : (bareCall r h).ref = r := rfl

section Bare

variable {r : CallRef} {h : HuntPart} {s : State}

theorem huntOf_bare (hr : Unused r s) (ns : List Notice) : huntOf r (grown (bareCall r h) ns s) = some h :=
  huntOf_eq (grown_holds (c := bareCall r h) hr ns).found

theorem distribute_bare_turnsAway (hr : Unused r s) (ht : TurnsAway h.group s) (hf : FloorOff h.group s) :
    distribute true [] r (grown (bareCall r h) [] s) = (s, .ended h.group h.hops.val .noTarget) := by
  have hd : decision [] h (grown (bareCall r h) [] s) = .turnAway := ht.decision_grown (by simp [bareCall]) []
  simp only [distribute, huntOf_bare hr, hd]
  exact deflect_grown hr .offered [] .noTarget hf

theorem distribute_bare_overflows (hr : Unused r s) {t : GroupNo} (ho : Overflows h.group t s) :
    distribute true [] r (grown (bareCall r h) [] s) = overflowN true (hopsLeft h) [] r t (grown (bareCall r h) [] s) := by
  have hd : decision [] h (grown (bareCall r h) [] s) = .overflow t := ho.decision_grown (by simp [bareCall]) []
  simp only [distribute, huntOf_bare hr, hd]

/-- A bare call overflows into a group that turns it away. -/
theorem overflowN_bare_turnsAway (hr : Unused r s) (hf : FloorOff h.group s) {t : GroupNo} (ht : TurnsAway t s)
    (hft : FloorOff t s) (n : Nat) (ns : List Notice) :
    overflowN true (n + 1) [] r t (grown (bareCall r h) ns s)
      = (raiseAll (ns ++ [.overflow h.group t (nextHop h.hops).val r]) s, .ended t (nextHop h.hops).val .noTarget) := by
  have hold : Holds _ (grown (bareCall r h) ns s) := grown_holds hr ns
  have hs := overflownState_grown (h := h) hr .offered ns t
  have harr : arrived t (nextHop h.hops) h (grown (bareCall r h) ns s) = arrived t (nextHop h.hops) h s :=
    arrived_congr _ _ _ rfl (grown_ptu _ _ _)
  have hd : decision [] (arrived t (nextHop h.hops) h s) (grown (bareCall r (arrived t (nextHop h.hops) h s))
      (ns ++ [.overflow h.group t (nextHop h.hops).val r]) s) = .turnAway :=
    ht.decision_grown (h := arrived t (nextHop h.hops) h s) (by simp [bareCall]) _
  rw [← bareCall, ← bareCall] at hs
  have step := overflowN_ends (duringHunt := true) (n := n) (withheld := []) (g := t) hold rfl (hf.of_groups rfl)
    (d := .turnAway) (by rw [hs, harr]; exact hd) (by simp)
  rw [hs, harr] at step
  refine (show overflowN true (n + 1) [] r t _ = _ from step).trans ?_
  exact deflect_grown hr .offered _ .noTarget hft

/-- A bare call overflows into a group that can only queue it. -/
theorem overflowN_bare_queues (hr : Unused r s) (hf : FloorOff h.group s) {t : GroupNo} (hq : CanOnlyQueue t s)
    (hft : FloorOff t s) (n : Nat) {c : CallRecord} (hc : c = ⟨r, .queued, [], [], some (arrived t (nextHop h.hops) h s)⟩)
    {place : Nat} (hplace : placeIn r t (s.deng.calls ++ [c]) = place) :
    overflowN true (n + 1) [] r t (grown (bareCall r h) [] s)
      = (grown c [.overflow h.group t (nextHop h.hops).val r, .queued t place r] s, .resting) := by
  have hold : Holds _ (grown (bareCall r h) [] s) := grown_holds hr []
  have harr : arrived t (nextHop h.hops) h (grown (bareCall r h) [] s) = arrived t (nextHop h.hops) h s :=
    arrived_congr _ _ _ rfl (grown_ptu _ _ _)
  have hrep : ∀ c, replaced r c (grown (bareCall r h) [] s) = s.deng.calls ++ [c] := fun c => hr.map_append (fun _ => c) rfl
  have hq' : CanOnlyQueue t (grown (bareCall r h) [] s) := by
    refine ⟨?_, ?_⟩
    · simp only [grown_groups, eligibleAt_grown]
      exact hq.noOffer
    · rw [queueOf_grown (by simp [bareCall])]
      exact hq.room
  have step := overflowN_queues hold rfl (hf.of_groups rfl) (hft.of_groups rfl) hq' (.inl (by simp [bareCall])) true n []
  refine (show overflowN true (n + 1) [] r t _ = _ from step).trans ?_
  have hcall : queuedCall (overflownCall (bareCall r h) h t (grown (bareCall r h) [] s))
      = c := by
    simp only [queuedCall, overflownCall, harr, hc]
    rfl
  have bare : reservedLines (bareCall r h) = [] ∧ withdrawals .overflow (bareCall r h) = [] := ⟨rfl, rfl⟩
  rw [hcall, bare.1, bare.2, bareCall_ref, hrep, hplace, grown_reservation]
  simp only [grown, outcome_groups, outcome_outcome, List.nil_append, arbitrateAll_nil]

/-- A bare call overflows into a group that overflows it on. -/
theorem overflowN_bare_again (hr : Unused r s) (hf : FloorOff h.group s) {t x : GroupNo} (ho : Overflows t x s)
    (n : Nat) (ns : List Notice) :
    overflowN true (n + 1) [] r t (grown (bareCall r h) ns s)
      = overflowN true n [] r x (grown (bareCall r (arrived t (nextHop h.hops) h s))
          (ns ++ [.overflow h.group t (nextHop h.hops).val r]) s) := by
  have hold : Holds _ (grown (bareCall r h) ns s) := grown_holds hr ns
  have hs := overflownState_grown (h := h) hr .offered ns t
  have harr : arrived t (nextHop h.hops) h (grown (bareCall r h) ns s) = arrived t (nextHop h.hops) h s :=
    arrived_congr _ _ _ rfl (grown_ptu _ _ _)
  have hd : decision [] (arrived t (nextHop h.hops) h s) (grown (bareCall r (arrived t (nextHop h.hops) h s))
      (ns ++ [.overflow h.group t (nextHop h.hops).val r]) s) = .overflow x :=
    ho.decision_grown (h := arrived t (nextHop h.hops) h s) (by simp [bareCall]) _
  rw [← bareCall, ← bareCall] at hs
  have step := overflowN_again (duringHunt := true) (n := n) (withheld := []) (g := t) (t := x) hold rfl (hf.of_groups rfl)
    (by rw [hs, harr]; exact hd)
  rw [hs] at step
  exact step

/-- A bare call with no hop left is deflected with HOPS. -/
theorem overflowN_bare_zero (hr : Unused r s) (hf : FloorOff h.group s) (w : List LineNo) (t : GroupNo) (ns : List Notice) :
    overflowN true 0 w r t (grown (bareCall r h) ns s) = (raiseAll ns s, .ended h.group h.hops.val .hops) := by
  simp only [overflowN, huntOf_bare hr]
  exact deflect_grown hr .offered ns .hops hf

end Bare

/-- A group that overflows into itself takes a bare call through the hops it has left. -/
theorem overflowN_bare_self {r : CallRef} {g : GroupNo} {s : State} (hr : Unused r s) (hf : FloorOff g s) (ho : Overflows g g s)
    (n : Nat) : ∀ (h : HuntPart) (ns : List Notice), h.group = g → h.hops.val + n = 4 →
      overflowN true n [] r g (grown (bareCall r h) ns s)
        = (raiseAll (ns ++ (List.range' (h.hops.val + 1) n).map fun k => .overflow g g k r) s, .ended g 4 .hops) := by
  induction n with
  | zero =>
    intro h ns hg hn
    subst hg
    rw [overflowN_bare_zero hr hf, show h.hops.val = 4 from hn]
    simp
  | succ n ih =>
    intro h ns hg hn
    have hops : (nextHop h.hops).val = h.hops.val + 1 := by
      have lt : h.hops.val < 4 := by omega
      simp only [nextHop, lt, if_true]
      exact Nat.mod_eq_of_lt (by omega)
    rw [overflowN_bare_again hr (hg ▸ hf) ho, ih _ _ rfl (by show (nextHop h.hops).val + n = 4; omega)]
    show (raiseAll (_ ++ [Notice.overflow h.group g _ r] ++ (List.range' ((nextHop h.hops).val + 1) n).map _) s, _) = _
    rw [hops, hg]
    simp [List.range'_succ]

/-- Settles O38: the call's way through its groups, with no line to let go. -/
theorem huntEnds : Obligations.HuntEnds := by
  intro n s g caller hs p r priority hr hg hc hnew hroom hf
  have valid : ValidHunt p g caller (pointed n s) := ⟨hr, hg, hc, hnew, hroom⟩
  have unused : Unused r (pointed n s) := unused_of_refHeld hnew
  have hf' : FloorOff g (pointed n s) := hf.of_groups rfl
  have placed := placeHunt_eq unused g priority caller
  rw [newCall_eq] at placed
  have answer : ∀ t rest, distribute true [] r (grown (bareCall r (arrived g 0 (newHunt g priority caller) (pointed n s))) []
      (pointed n s)) = (t, rest) → exec .hunt s = .next (finishSlot n (huntReply r rest t) t) := fun t rest hd => by
    rw [exec_hunt hs, valid.hunt_eq]
    rw [show placeHunt (BitVec.ofNat 16 (bits p.p0 0 16)) g (Fin.ofNat 4 (bits p.p1 16 2)) caller (pointed n s) = _ from placed, hd]
  refine ⟨fun ht => ?_, fun t ho hft => ?_⟩
  · have ht' : TurnsAway g (pointed n s) := ⟨ht.noOffer, ht.noTarget, ht.full⟩
    exact answer _ _ (distribute_bare_turnsAway unused ht' hf')
  have ho' : Overflows g t (pointed n s) := ⟨ho.target, ho.day⟩
  have hft' : FloorOff t (pointed n s) := hft.of_groups rfl
  have way := distribute_bare_overflows (h := arrived g 0 (newHunt g priority caller) (pointed n s)) unused ho'
  refine ⟨?_, fun ht => ?_, fun htg night => ?_⟩
  · intro hq place c
    have hq' : CanOnlyQueue t (pointed n s) := ⟨hq.noOffer, hq.room⟩
    have hplace : placeIn r t ((pointed n s).deng.calls ++ [c]) = place :=
      placeIn_newest (c := c) unused rfl ((inGroup_iff rfl).mpr rfl)
    have hd := way.trans (overflowN_bare_queues unused hf' hq' hft' 3 (c := c) rfl hplace)
    have hold : Holds c (grown c [.overflow g t 1 r, .queued t place r] (pointed n s)) := grown_holds unused _
    have reply := restingReply_queued (r := r) hold.found rfl rfl
    rw [grown_calls, arrived_group, hplace] at reply
    refine (answer _ _ hd).trans ?_
    show Host.Outcome.next (finishSlot n (restingReply r (grown c [.overflow g t 1 r, .queued t place r] (pointed n s))) _) = _
    rw [reply, grown_eq]
    rfl
  · have ht' : TurnsAway t (pointed n s) := ⟨ht.noOffer, ht.noTarget, ht.full⟩
    exact answer _ _ (way.trans (overflowN_bare_turnsAway unused hf' ht' hft' 3 []))
  · subst htg
    have hself := overflowN_bare_self unused hf' ho' 4 (arrived t 0 (newHunt t priority caller) (pointed n s)) [] rfl rfl
    exact answer _ _ (way.trans hself)

end Sys2Proof.Machine
end

section
namespace Sys2Proof.Machine

/-! ### Reservations in line order (R4) -/

/-- Two rising lists with the same lines are the same. -/
theorem rising_ext {ks ls : List LineNo} (hk : ks.Pairwise (· < ·)) (hl : ls.Pairwise (· < ·)) (h : ∀ k, k ∈ ks ↔ k ∈ ls) :
    ks = ls :=
  List.Perm.eq_of_pairwise (le := (· < ·)) (fun _ _ _ _ hab hba => absurd hba hab.asymm) hk hl
    ((List.perm_ext_iff_of_nodup (hk.imp fun hlt => hlt.ne) (hl.imp fun hlt => hlt.ne)).mpr h)

/-- Some lines in line order. -/
@[irreducible] def inLineOrder (ls : List LineNo) : List LineNo := (List.finRange 1024).filter (· ∈ ls)

theorem inLineOrder_rising (ls : List LineNo) : (inLineOrder ls).Pairwise (· < ·) := by
  unfold inLineOrder
  exact (List.pairwise_lt_finRange 1024).filter _

theorem mem_inLineOrder (ls : List LineNo) (k : LineNo) : k ∈ inLineOrder ls ↔ k ∈ ls := by
  unfold inLineOrder
  rw [List.mem_filter, decide_eq_true_iff]
  exact and_iff_right (List.mem_finRange k)

theorem length_inLineOrder {ls : List LineNo} (h : ls.Nodup) : (inLineOrder ls).length = ls.length :=
  ((List.perm_ext_iff_of_nodup ((inLineOrder_rising ls).imp fun hlt => hlt.ne) h).mpr (mem_inLineOrder ls)).length_eq

/-- A reservation put into a set in line order stands at its line's place. -/
theorem insertReservation_rising {t : Nat} {l : LineNo} {ls : List LineNo} (hs : ls.Pairwise (· < ·)) (hl : l ∉ ls) :
    ∃ ks : List LineNo, insertReservation ⟨l, t⟩ (ls.map fun k => ⟨k, t⟩) = ks.map (fun k => ⟨k, t⟩)
      ∧ ks.Pairwise (· < ·) ∧ ∀ k, k ∈ ks ↔ k ∈ l :: ls := by
  induction ls with
  | nil => exact ⟨[l], rfl, by simp, by simp⟩
  | cons y ys ih =>
    obtain ⟨hy, hys⟩ := List.pairwise_cons.mp hs
    by_cases lt : l < y
    · refine ⟨l :: y :: ys, by simp [insertReservation, lt], List.pairwise_cons.mpr ⟨fun k hk => ?_, hs⟩, fun k => Iff.rfl⟩
      obtain rfl | hk := List.mem_cons.mp hk
      · exact lt
      · exact lt.trans (hy k hk)
    · obtain ⟨ks, e, hk, hm⟩ := ih hys (List.not_mem_of_not_mem_cons hl)
      refine ⟨y :: ks, by simp [insertReservation, lt, e], List.pairwise_cons.mpr ⟨fun k hkk => ?_, hk⟩, fun k => ?_⟩
      · obtain rfl | hkk := List.mem_cons.mp ((hm k).mp hkk)
        · exact lt_of_le_of_ne (not_lt.mp lt) (List.ne_of_not_mem_cons hl).symm
        · exact hy k hkk
      · simp only [List.mem_cons, hm]
        tauto

/-- The reservation set of some lines, in line order, with one expiry (R4, R29). -/
@[irreducible] def reservationSet (ls : List LineNo) (t : Nat) : List Reservation := (inLineOrder ls).map fun l => ⟨l, t⟩

theorem insert_reservationSet {ls : List LineNo} {l : LineNo} (hl : l ∉ ls) (t : Nat) :
    insertReservation ⟨l, t⟩ (reservationSet ls t) = reservationSet (l :: ls) t := by
  obtain ⟨ks, e, hk, hm⟩ := insertReservation_rising (t := t) (inLineOrder_rising ls) (by rwa [mem_inLineOrder])
  rw [reservationSet, e, reservationSet, rising_ext hk (inLineOrder_rising (l :: ls)) fun k => by
    rw [hm, mem_inLineOrder, List.mem_cons, List.mem_cons, mem_inLineOrder]]

theorem reservationSet_congr {ks ls : List LineNo} (h : ∀ k, k ∈ ks ↔ k ∈ ls) (t : Nat) :
    reservationSet ks t = reservationSet ls t := by
  rw [reservationSet, reservationSet, rising_ext (inLineOrder_rising ks) (inLineOrder_rising ls) fun k => by
    rw [mem_inLineOrder, mem_inLineOrder, h]]

theorem reservationSet_nil (t : Nat) : reservationSet [] t = [] := by
  have none : inLineOrder [] = [] := List.eq_nil_iff_forall_not_mem.mpr fun k => by rw [mem_inLineOrder]; exact List.not_mem_nil
  rw [reservationSet, none, List.map_nil]

/-! ### Offers (R28, R29) -/

/-- The record of a call that is offered to some lines. -/
def offeredTo (ls : List LineNo) (t : Nat) (c : CallRecord) : CallRecord := { c with reservations := reservationSet ls t }

@[simp] theorem offeredTo_ref (ls : List LineNo) (t : Nat) (c : CallRecord) : (offeredTo ls t c).ref = c.ref := rfl

/-- The groups after an offer to a position: in CIRCULAR mode the hunt pointer moves (R28). -/
def pointerAt (g : GroupNo) (i : MemberPos) (groups : Vector HuntGroup 64) : Vector HuntGroup 64 :=
  if (groups.get g).config.mode = .circular then modAt groups g fun h => { h with huntPointer := i } else groups

/-- The line of a position. -/
def lineAt (g : GroupNo) (groups : Vector HuntGroup 64) (i : MemberPos) : LineNo := ((groups.get g).members.get i).line

@[simp] theorem lineAt_pointerAt (g : GroupNo) (i : MemberPos) (groups : Vector HuntGroup 64) :
    lineAt g (pointerAt g i groups) = lineAt g groups := by
  funext j
  unfold lineAt pointerAt
  split <;> simp

theorem reserved_cons (l : LineNo) (ls : List LineNo) (r : CallRef) (s : State) :
    (fun k => if k = l then some r else reserved ls r s k) = reserved (l :: ls) r s := by
  funext k
  by_cases h1 : k = l <;> by_cases h2 : k ∈ ls <;> simp [reserved, h1, h2]

/-- One more offer of a call that is offered to some lines already. -/
theorem placeOffer_eq {c : CallRecord} {s : State} {g : GroupNo} {ls : List LineNo} {i : MemberPos}
    (groups : Vector HuntGroup 64) (hi : lineAt g groups i ∉ ls) (ns : List Notice) :
    placeOffer c.ref g (outcome (reserved ls c.ref s) (replaced c.ref (offeredTo ls (s.ptu.clock + s.deng.confirmWindow) c) s)
        groups ns s) i
      = outcome (reserved (lineAt g groups i :: ls) c.ref s)
          (replaced c.ref (offeredTo (lineAt g groups i :: ls) (s.ptu.clock + s.deng.confirmWindow) c) s)
          (pointerAt g i groups) (ns ++ [.offer g c.ref (lineAt g groups i)]) s := by
  have hcall : ∀ t, { offeredTo ls t c with reservations := insertReservation ⟨lineAt g groups i, t⟩ (reservationSet ls t) }
      = offeredTo (lineAt g groups i :: ls) t c := fun t => by rw [insert_reservationSet hi]; rfl
  have hline : ((groups.get g).members.get i).line = lineAt g groups i := rfl
  simp only [placeOffer, outcome_groups, hline, reserve_outcome, reserved_cons, modCall_outcome, after, outcome_ptu,
    outcome_confirmWindow, map_replaced _ (offeredTo_ref ls _ c)]
  rw [← hcall]
  by_cases hm : (groups.get g).config.mode = .circular
  · simp only [pointerAt, hm, if_true, modGroup_outcome, raiseNotice_outcome]
    rfl
  · simp only [pointerAt, hm, if_false, raiseNotice_outcome]
    rfl

/-- Offers to some positions one after another, in a mode that may offer to several, or to one position. -/
theorem foldl_placeOffer {c : CallRecord} {s : State} {g : GroupNo} (ps : List MemberPos) : ∀ {ls : List LineNo}
    {groups : Vector HuntGroup 64} {ns : List Notice},
    (ps.map (lineAt g groups)).Nodup → (∀ i ∈ ps, lineAt g groups i ∉ ls) →
    ps.foldl (placeOffer c.ref g) (outcome (reserved ls c.ref s)
        (replaced c.ref (offeredTo ls (s.ptu.clock + s.deng.confirmWindow) c) s) groups ns s)
      = outcome (reserved ((ps.map (lineAt g groups)).reverse ++ ls) c.ref s)
          (replaced c.ref (offeredTo ((ps.map (lineAt g groups)).reverse ++ ls) (s.ptu.clock + s.deng.confirmWindow) c) s)
          (ps.foldl (fun gs i => pointerAt g i gs) groups) (ns ++ ps.map fun i => .offer g c.ref (lineAt g groups i)) s := by
  induction ps with
  | nil => intros; simp
  | cons i ps ih =>
    intro ls groups ns hnd hls
    obtain ⟨hi, hnd⟩ := List.nodup_cons.mp hnd
    rw [List.foldl_cons, placeOffer_eq groups (hls i (by simp)), ih (by simpa using hnd)]
    · simp
    · intro j hj
      rw [lineAt_pointerAt, List.mem_cons, not_or]
      exact ⟨fun e => hi (List.mem_map.mpr ⟨j, hj, e⟩), hls j (by simp [hj])⟩

theorem reserved_congr {ks ls : List LineNo} (h : ∀ k, k ∈ ks ↔ k ∈ ls) (r : CallRef) (s : State) :
    reserved ks r s = reserved ls r s := by
  funext k
  by_cases hk : k ∈ ls
  · simp only [reserved, hk, (h k).mpr hk]
  · simp only [reserved, hk, mt (h k).mp hk]

/-- The offers of a call that has no reservation yet. -/
theorem foldl_placeOffer_nil {c : CallRecord} {s : State} {g : GroupNo} {ps : List MemberPos} (hc : c.reservations = [])
    (hnd : (ps.map (lineAt g s.deng.groups)).Nodup) :
    ps.foldl (placeOffer c.ref g) (outcome (unreserved [] s) (replaced c.ref c s) s.deng.groups [] s)
      = outcome (reserved (ps.map (lineAt g s.deng.groups)) c.ref s)
          (replaced c.ref (offeredTo (ps.map (lineAt g s.deng.groups)) (s.ptu.clock + s.deng.confirmWindow) c) s)
          (ps.foldl (fun gs i => pointerAt g i gs) s.deng.groups) (ps.map fun i => .offer g c.ref (lineAt g s.deng.groups i)) s := by
  have hmem : ∀ k, k ∈ (ps.map (lineAt g s.deng.groups)).reverse ++ [] ↔ k ∈ ps.map (lineAt g s.deng.groups) := fun k => by
    rw [List.append_nil, List.mem_reverse]
  have hrec : offeredTo [] (s.ptu.clock + s.deng.confirmWindow) c = c := by
    rw [offeredTo, reservationSet_nil, ← hc]
  have hres : reserved [] c.ref s = unreserved [] s := by funext k; simp [reserved, unreserved]
  have fold := foldl_placeOffer (c := c) (s := s) (g := g) ps (ls := []) (groups := s.deng.groups) (ns := []) hnd (by simp)
  rw [hrec, hres, reserved_congr hmem] at fold
  rw [fold, offeredTo, reservationSet_congr hmem]
  rfl

theorem foldl_pointerAt_of_not_circular {g : GroupNo} {groups : Vector HuntGroup 64}
    (h : (groups.get g).config.mode ≠ .circular) (ps : List MemberPos) :
    ps.foldl (fun gs i => pointerAt g i gs) groups = groups := by
  induction ps with
  | nil => rfl
  | cons i ps ih => rw [List.foldl_cons, pointerAt, if_neg h, ih]

end Sys2Proof.Machine
end

section
namespace Sys2Proof.Machine

/-! ### A new call that is offered (R28, R29, R37, R47) -/

/-- What a mode selects: in ALL_RING everything, else one position or none. -/
theorem pickByMode_cases (h : HuntGroup) (es : List MemberPos) (s : State) :
    (h.config.mode = .allRing ∧ pickByMode h es s = es)
      ∨ pickByMode h es s = [] ∨ ∃ i ∈ es, pickByMode h es s = [i] := by
  have ofHead : ∀ xs : List MemberPos, (∀ x ∈ xs, x ∈ es) → xs.head?.toList = [] ∨ ∃ i ∈ es, xs.head?.toList = [i] := by
    rintro (_ | ⟨x, xs⟩) h
    · exact .inl rfl
    · exact .inr ⟨x, h x (by simp), rfl⟩
  cases hm : h.config.mode with
  | linear => rw [pickByMode_linear hm]; exact .inr (ofHead es fun _ hx => hx)
  | circular => rw [pickByMode_circular hm]; exact .inr (ofHead _ fun x hx => (mem_circular_iff _ x es).mp hx)
  | longestIdle =>
    rw [pickByMode_longestIdle hm]
    cases hf : s.lmon.idleOrder.findSome? fun l => es.find? fun i => (h.members.get i).line = l with
    | none => exact .inr (.inl rfl)
    | some i =>
      obtain ⟨l, -, hl⟩ := List.exists_of_findSome?_eq_some hf
      exact .inr (.inr ⟨i, List.mem_of_find?_eq_some hl, rfl⟩)
  | allRing => exact .inl ⟨rfl, pickByMode_allRing hm es s⟩

/-- Selected positions: eligible, rising, and one only outside ALL_RING. -/
structure Selected (g : GroupNo) (ps : List MemberPos) (s : State) : Prop where
  eligible : ∀ i ∈ ps, eligibleAt g i s = true
  rising : ps.Pairwise (· < ·)
  single : (s.deng.groups.get g).config.mode ≠ .allRing → ps.length ≤ 1

theorem select_selected (g : GroupNo) (tried : List MemberPos) (s : State) : Selected g (select [] g tried s).1 s := by
  have helig : ∀ i ∈ selectable [] g tried s, eligibleAt g i s = true := fun i => eligibleAt_of_mem_selectable
  rw [select_fst]
  obtain ⟨hm, e⟩ | e | ⟨i, hi, e⟩ := pickByMode_cases (s.deng.groups.get g) (selectable [] g tried s) s
  · exact ⟨by rwa [e], by rw [e]; exact selectable_sorted [] g tried s, fun hne => absurd hm hne⟩
  · exact ⟨by simp [e], by simp [e], by simp [e]⟩
  · exact ⟨by simpa [e] using helig i hi, by simp [e], by simp [e]⟩

/-- Selected positions hold different lines. -/
theorem Selected.lines_nodup {g : GroupNo} {ps : List MemberPos} {s : State} (h : Selected g ps s) :
    (ps.map (lineAt g s.deng.groups)).Nodup :=
  List.Nodup.map_on (fun i hi j hj e => isEffective_inj (eligibleAt_iff.mp (h.eligible i hi)).1
    (eligibleAt_iff.mp (h.eligible j hj)).1 e) (h.rising.imp fun hlt => hlt.ne)

/-- Only in CIRCULAR mode does an offer move the hunt pointer, and it moves to the position. -/
theorem Selected.pointer {g : GroupNo} {i : MemberPos} {more : List MemberPos} {s : State} (h : Selected g (i :: more) s) :
    (i :: more).foldl (fun gs i => pointerAt g i gs) s.deng.groups = pointerAt g i s.deng.groups := by
  by_cases hm : (s.deng.groups.get g).config.mode = .circular
  · have hl := h.single (by simp [hm])
    obtain rfl : more = [] := by simpa using hl
    rfl
  · rw [foldl_pointerAt_of_not_circular hm, pointerAt, if_neg hm]

/-- Effective lines depend on the members alone. -/
theorem effectiveLine_congr {h k : HuntGroup} (e : h.members = k.members) (i : MemberPos) :
    effectiveLine h i = effectiveLine k i := by
  obtain ⟨c, n, p, f, ms⟩ := h
  obtain rfl : ms = k.members := e
  rfl

/-- The answer's line: of the effective members in position order the first that is offered the call is the lowest position selected. -/
theorem lowestOffered_eq {g : GroupNo} {i : MemberPos} {more : List MemberPos} {s t : State} (h : Selected g (i :: more) s)
    (ht : (t.deng.groups.get g).members = (s.deng.groups.get g).members) {k : HuntPart} (hk : k.group = g) {c : CallRecord}
    (hc : ∀ l, l ∈ reservedLines c ↔ l ∈ (i :: more).map (lineAt g s.deng.groups)) :
    lowestOffered c k t = (lineAt g s.deng.groups i).val := by
  have heff : ∀ j, effectiveLine (t.deng.groups.get g) j = effectiveLine (s.deng.groups.get g) j := effectiveLine_congr ht
  have hfirst : (List.finRange 32).find? (fun j => (effectiveLine (s.deng.groups.get g) j).any fun l => l ∈ reservedLines c) = some i := by
    rw [find?_finRange_eq_some]
    have hi := (eligibleAt_iff.mp (h.eligible i (by simp))).1
    refine ⟨?_, fun j lt hj => ?_⟩
    · simp only [effectiveLine, hi, if_true, Option.any_some, decide_eq_true_eq, hc]
      exact List.mem_map.mpr ⟨i, by simp, rfl⟩
    · unfold effectiveLine at hj
      split at hj
      · next hje =>
        simp only [Option.any_some, decide_eq_true_eq, hc] at hj
        obtain ⟨x, hx, e⟩ := List.mem_map.mp hj
        obtain rfl := isEffective_inj (eligibleAt_iff.mp (h.eligible x hx)).1 hje e
        obtain rfl | hx := List.mem_cons.mp hx
        · exact lt.ne rfl
        · exact (lt.trans ((List.pairwise_cons.mp h.rising).1 x hx)).ne rfl
      · simp at hj
  have hi := (eligibleAt_iff.mp (h.eligible i (by simp))).1
  simp only [lowestOffered, lowestOffered.eligibleOrder, hk, heff, List.find?_filterMap, hfirst, Option.bind_some]
  simp [effectiveLine, hi, lineAt]

/-- What HUNT answers for a call that has come to rest offered. -/
theorem restingReply_offered {r : CallRef} {c : CallRecord} {h : HuntPart} {s : State} (hc : findCall r s = some c)
    (hh : c.hunt = some h) (hq : c.state ≠ .queued) :
    restingReply r s = ⟨.ok, packed [(1, 0), (h.group.val, 8), (h.hops.val, 16), (c.reservations.length, 24)],
      packed [(lowestOffered c h s, 0)]⟩ := by
  simp [restingReply, hc, hh, hq]

theorem mem_reservedLines_offeredTo (ls : List LineNo) (t : Nat) (c : CallRecord) (l : LineNo) :
    l ∈ reservedLines (offeredTo ls t c) ↔ l ∈ ls := by
  rw [reservedLines, offeredTo, reservationSet, List.map_map, ← mem_inLineOrder ls l]
  simp

theorem offeredTo_length {ls : List LineNo} (h : ls.Nodup) (t : Nat) (c : CallRecord) :
    (offeredTo ls t c).reservations.length = ls.length := by
  rw [offeredTo, reservationSet, List.length_map, length_inLineOrder h]

theorem members_pointerAt (g : GroupNo) (i : MemberPos) (groups : Vector HuntGroup 64) :
    ((pointerAt g i groups).get g).members = (groups.get g).members := by
  unfold pointerAt
  split <;> simp

theorem carryOut_offer (duringHunt : Bool) (r : CallRef) (h : HuntPart) (ps : List MemberPos) (s : State) :
    carryOut duringHunt r h (.offer ps false) s = (evalFloor h.group (offerCall r h.group ps s), .resting) := rfl

/-- The state in which a new call is offered to the positions selected. -/
def offeredNew (r : CallRef) (g : GroupNo) (i : MemberPos) (more : List MemberPos) (c : CallRecord) (s : State) : State :=
  outcome (reserved ((i :: more).map (lineAt g s.deng.groups)) r s)
    (s.deng.calls ++ [offeredTo ((i :: more).map (lineAt g s.deng.groups)) (s.ptu.clock + s.deng.confirmWindow) c])
    (pointerAt g i s.deng.groups) ((i :: more).map fun j => .offer g r (lineAt g s.deng.groups j)) s

@[simp] theorem offeredNew_groups (r : CallRef) (g : GroupNo) (i : MemberPos) (more : List MemberPos) (c : CallRecord) (s : State) :
    (offeredNew r g i more c s).deng.groups = pointerAt g i s.deng.groups := by
  rw [offeredNew, outcome_groups]

theorem FloorOff.offeredNew {g : GroupNo} {s : State} (hf : FloorOff g s) (r : CallRef) (i : MemberPos) (more : List MemberPos)
    (c : CallRecord) : FloorOff g (offeredNew r g i more c s) := by
  refine ⟨?_, ?_⟩ <;> simp only [offeredNew_groups, pointerAt] <;> split <;> simp [hf.target, hf.off]

/-- A call that is offered and has no lines yet, to the positions selected. -/
theorem offerCall_bare {r : CallRef} {h : HuntPart} {g : GroupNo} {i : MemberPos} {more : List MemberPos} {s : State}
    (hr : Unused r s) (hsel : Selected g (i :: more) s) :
    offerCall r g (i :: more) (grown (bareCall r h) [] s) = offeredNew r g i more (bareCall r h) s := by
  have hold : Holds (bareCall r h) (grown (bareCall r h) [] s) := grown_holds hr []
  have hrep : ∀ c, replaced r c (grown (bareCall r h) [] s) = s.deng.calls ++ [c] := fun c => hr.map_append (fun _ => c) rfl
  have hres : ∀ ls, reserved ls r (grown (bareCall r h) [] s) = reserved ls r s := fun ls => by
    funext k; simp [reserved, grown, unreserved]
  have start : offerCall r g (i :: more) (grown (bareCall r h) [] s) = (i :: more).foldl (placeOffer r g)
      (outcome (unreserved [] (grown (bareCall r h) [] s)) (replaced r (bareCall r h) (grown (bareCall r h) [] s))
        (grown (bareCall r h) [] s).deng.groups [] (grown (bareCall r h) [] s)) := by
    have hs := modCall_eq_outcome hold fun c => { c with state := if c.ringing = [] then .offered else .ringing }
    rw [bareCall_ref] at hs
    have hf : findCall r (grown (bareCall r h) [] s) = some (bareCall r h) := hold.found
    rw [offerCall, hf, hs]
    rfl
  have fold := foldl_placeOffer_nil (c := bareCall r h) (s := grown (bareCall r h) [] s) (g := g) (ps := i :: more) rfl
    hsel.lines_nodup
  rw [bareCall_ref, grown_groups, hsel.pointer] at fold
  rw [start, grown_groups, fold, hres, hrep]
  simp only [grown, outcome_ptu, outcome_confirmWindow, outcome_outcome, List.nil_append, offeredNew]

/-- HUNT of a call that its group offers: its lines, its answer. -/
theorem placeHunt_offers {r : CallRef} {g : GroupNo} {s : State} (hr : Unused r s) {i : MemberPos} {more : List MemberPos}
    (night : (s.deng.groups.get g).night = false) (hsel : (select [] g [] s).1 = i :: more) (hf : FloorOff g s)
    (priority : Fin 4) (caller : Option LineNo) :
    placeHunt r g priority caller s
      = (offeredNew r g i more (newCall r g priority caller s) s,
        ⟨.ok, packed [(1, 0), (g.val, 8), (0, 16), ((i :: more).length, 24)], packed [((lineAt g s.deng.groups i).val, 0)]⟩) := by
  have selected : Selected g (i :: more) s := hsel ▸ select_selected g [] s
  have kept : (select [] g [] s).2 = false := by
    by_contra hne
    have h := (select_snd [] g [] s).mp (by simpa using hne)
    obtain ⟨x, hx⟩ := List.exists_mem_of_ne_nil _ h.1
    simpa using h.2 x hx
  have hsel' := select_grown (newCall r g priority caller s) [] g [] s
  have hd : decision [] (arrived g 0 (newHunt g priority caller) s) (grown (newCall r g priority caller s) [] s)
      = .offer (i :: more) false := by
    have ne : (select [] g [] (grown (newCall r g priority caller s) [] s)).1 ≠ [] := by rw [hsel', hsel]; simp
    have day : ((grown (newCall r g priority caller s) [] s).deng.groups.get g).night = false := by rw [grown_groups, night]
    have offer := decision_offer (h := arrived g 0 (newHunt g priority caller) s) day ne
    rw [arrived_group, show (arrived g 0 (newHunt g priority caller) s).tried = [] from rfl, hsel', hsel, kept] at offer
    exact offer
  have hoff := hf.offeredNew r i more (newCall r g priority caller s)
  have hdist : distribute true [] r (grown (newCall r g priority caller s) [] s)
      = (offeredNew r g i more (newCall r g priority caller s) s, .resting) := by
    have hh : huntOf r (grown (newCall r g priority caller s) [] s) = some (arrived g 0 (newHunt g priority caller) s) :=
      huntOf_bare hr []
    simp only [distribute, hh, hd, carryOut_offer, arrived_group]
    rw [newCall_eq, offerCall_bare hr selected, ← newCall_eq, hoff.eval]
  rw [placeHunt_eq hr, hdist]
  have hold : Holds (offeredTo ((i :: more).map (lineAt g s.deng.groups)) (s.ptu.clock + s.deng.confirmWindow)
      (newCall r g priority caller s)) (offeredNew r g i more (newCall r g priority caller s) s) :=
    Unused.holds hr (by rw [offeredNew, outcome_calls])
  have lowest := lowestOffered_eq (t := offeredNew r g i more (newCall r g priority caller s) s)
    selected (by rw [offeredNew_groups]; exact members_pointerAt g i s.deng.groups) (arrived_group g 0 (newHunt g priority caller) s)
    (mem_reservedLines_offeredTo ((i :: more).map (lineAt g s.deng.groups)) (s.ptu.clock + s.deng.confirmWindow)
      (newCall r g priority caller s))
  have reply := restingReply_offered hold.found rfl (by simp [offeredTo, newCall])
  rw [lowest, offeredTo_length selected.lines_nodup, List.length_map] at reply
  exact Prod.ext rfl reply

theorem inLineOrder_eq (ls : List LineNo) : inLineOrder ls = (List.finRange 1024).filter (· ∈ ls) := by
  delta inLineOrder
  with_reducible rfl

/-- The record of a new call that is offered. -/
theorem offeredTo_newCall (ls : List LineNo) (t : Nat) (r : CallRef) (g : GroupNo) (priority : Fin 4) (caller : Option LineNo)
    (s : State) :
    offeredTo ls t (newCall r g priority caller s)
      = { ref := r, state := .offered, ringing := [], reservations := ((List.finRange 1024).filter (· ∈ ls)).map fun l => ⟨l, t⟩
          hunt := some (arrived g 0 (newHunt g priority caller) s) } := by
  rw [← inLineOrder_eq]
  simp only [offeredTo, reservationSet, newCall]

/-- Settles O36: the selected positions' lines are different and rise with the positions, so that the offers one after another give
the reservations and the answer of the statement. -/
theorem huntOffers : Obligations.HuntOffers := by
  intro n s g i more caller hs p r h line lines hr hg hc hnew hroom night hf hsel c
  have valid : ValidHunt p g caller (pointed n s) := ⟨hr, hg, hc, hnew, hroom⟩
  have answer := placeHunt_offers (s := pointed n s) (unused_of_refHeld hnew) night hsel (hf.of_groups rfl)
    (Fin.ofNat 4 (bits p.p1 16 2)) caller
  have hcall := offeredTo_newCall lines (s.ptu.clock + s.deng.confirmWindow) r g (Fin.ofNat 4 (bits p.p1 16 2)) caller (pointed n s)
  have hpointer : pointerAt g i s.deng.groups
      = if h.config.mode = .circular then putAt s.deng.groups g { h with huntPointer := i } else s.deng.groups := rfl
  have hlines : (i :: more).map (lineAt g s.deng.groups) = lines := rfl
  have hnotices : ((i :: more).map fun j => Notice.offer g r (lineAt g s.deng.groups j)) = lines.map fun l => .offer g r l := by
    simp only [lines, List.map_map]
    rfl
  rw [exec_hunt hs, valid.hunt_eq]
  simp only [offeredNew, pointed_deng, pointed_ptu, hlines, hcall, hpointer] at answer
  rw [show placeHunt (BitVec.ofNat 16 (bits p.p0 0 16)) g (Fin.ofNat 4 (bits p.p1 16 2)) caller (pointed n s) = _ from answer]
  rw [hnotices]
  simp only [lines, List.length_map]
  rfl

end Sys2Proof.Machine
end

section
namespace Sys2Proof.Machine

/-! ### What the processor's words give, kept by the blocks' own moves -/

theorem SameInputs.refl (s : State) : SameInputs s s := by
  constructor <;> intros <;> rfl

theorem SameInputs.trans {s t u : State} (h : SameInputs s t) (k : SameInputs t u) : SameInputs s u where
  lineState l := (k.lineState l).trans (h.lineState l)
  pickup l := (k.pickup l).trans (h.pickup l)
  directedAny l := (k.directedAny l).trans (h.directedAny l)
  noPickupFrom l := (k.noPickupFrom l).trans (h.noPickupFrom l)
  idleOrder := k.idleOrder.trans h.idleOrder
  config g := (k.config g).trans (h.config g)
  memberLine g i := (k.memberLine g i).trans (h.memberLine g i)
  memberValid g i := (k.memberValid g i).trans (h.memberValid g i)
  initialSignIn g i := (k.initialSignIn g i).trans (h.initialSignIn g i)
  permissions := k.permissions.trans h.permissions
  confirmWindow := k.confirmWindow.trans h.confirmWindow
  parkTime := k.parkTime.trans h.parkTime
  targets := k.targets.trans h.targets
  enabled := k.enabled.trans h.enabled
  patterns := k.patterns.trans h.patterns
  directory := k.directory.trans h.directory
  noise z := (k.noise z).trans (h.noise z)
  gain z := (k.gain z).trans (h.gain z)
  linkEnable := k.linkEnable.trans h.linkEnable
  consumer := k.consumer.trans h.consumer
  threshold := k.threshold.trans h.threshold
  holdoff := k.holdoff.trans h.holdoff

theorem sameInputs_modAmon (z : ZoneNo) {f : AmonZone → AmonZone} (h : ∀ a, (f a).fields = a.fields) (s : State) :
    SameInputs s (modAmon z f s) :=
  { SameInputs.refl s with
    noise := fun y => by
      simp only [modAmon, get_modAt]
      split
      · next e => rw [h, e]
      · rfl }

theorem sameInputs_modZos (z : ZoneNo) {f : ZosZone → ZosZone} (h : ∀ x, (f x).gain = x.gain) (s : State) :
    SameInputs s (modZos z f s) :=
  { SameInputs.refl s with
    gain := fun y => by
      simp only [modZos, get_modAt]
      split
      · next e => rw [h, e]
      · rfl }

theorem sameInputs_putHolder (z : ZoneNo) (h : Option Holder) (s : State) : SameInputs s (putHolder z h s) :=
  { SameInputs.refl s with }

theorem sameInputs_putOverrun (z : ZoneNo) (b : Bool) (s : State) : SameInputs s (putOverrun z b s) :=
  { SameInputs.refl s with }

theorem sameInputs_regain (z : ZoneNo) (s : State) : SameInputs s (regain z s) :=
  sameInputs_modZos z (by intro _; rfl) s

theorem sameInputs_zoneTaken (z : ZoneNo) (h : Holder) (s : State) : SameInputs s (zoneTaken z h s) := by
  refine SameInputs.trans ?_ (sameInputs_regain z _)
  have emptied : SameInputs s (putOverrun z false (emptyFifo z (putHolder z (some h) s))) :=
    ((sameInputs_putHolder z (some h) s).trans (sameInputs_modZos z (by intro _; rfl) _)).trans (sameInputs_putOverrun z false _)
  unfold freezeTaken
  split
  · exact emptied.trans (sameInputs_modAmon z (by intro _; rfl) _)
  · exact emptied

theorem sameInputs_zoneFreed (z : ZoneNo) (s : State) : SameInputs s (zoneFreed z s) := by
  have silent : SameInputs s (modZos z (fun x => { x with fifo := [], ga := 0, gt := 0, rampAt := none })
      (putOverrun z false (putHolder z none s))) :=
    ((sameInputs_putHolder z none s).trans (sameInputs_putOverrun z false _)).trans (sameInputs_modZos z (by intro _; rfl) _)
  unfold zoneFreed freezeFreed
  split
  · split
    · exact silent.trans (sameInputs_modAmon z (by intro _; rfl) _)
    · exact silent
  · exact silent

theorem sameInputs_zoneLetting (b : Bool) (z : ZoneNo) (s : State) : SameInputs s (zoneLetting b z s) := by
  unfold zoneLetting
  split
  · exact (sameInputs_putHolder z _ s).trans (sameInputs_regain z _)
  · exact SameInputs.refl s

theorem sameInputs_groups {s : State} {d : Deng} (hg : ∀ g, GroupKeeps (s.deng.groups.get g) (d.groups.get g))
    (hp : d.permissions = s.deng.permissions) (hc : d.confirmWindow = s.deng.confirmWindow) (ht : d.parkTime = s.deng.parkTime) :
    SameInputs s { s with deng := d } :=
  { SameInputs.refl s with
    config := fun g => (hg g).1
    memberLine := fun g i => congrArg (·.1) ((hg g).2 i)
    memberValid := fun g i => congrArg (·.2.1) ((hg g).2 i)
    initialSignIn := fun g i => congrArg (·.2.2) ((hg g).2 i)
    permissions := hp
    confirmWindow := hc
    parkTime := ht }

theorem sameInputs_ntu {s t : State} (ht : t = { s with ntu := t.ntu }) (h : NtuKeeps s.ntu t.ntu) : SameInputs s t := by
  obtain ⟨hc, hh, hd⟩ := h
  rw [ht]
  exact { SameInputs.refl s with consumer := hc, threshold := hh, holdoff := hd }

theorem sameInputs_raiseNotice (n : Notice) (s : State) : SameInputs s (raiseNotice n s) :=
  sameInputs_ntu (raiseNotice_fits n s).1 (raiseNotice_fits n s).2.2

theorem sameInputs_chains (f : ZoneNo → AmonZone → AmonZone) (h : ∀ z a, (f z a).fields = a.fields) (s : State) :
    SameInputs s { s with amon := Vector.ofFn fun z => f z (s.amon.get z) } := by
  have fields : ∀ z, ((Vector.ofFn fun z => f z (s.amon.get z)).get z).fields = (s.amon.get z).fields := fun z => by
    rw [get_ofFn, h]
  generalize Vector.ofFn (fun z => f z (s.amon.get z)) = v at fields
  exact { SameInputs.refl s with noise := fields }

theorem sameInputs_zones {s : State} (slots : Vector Sample 24) (zones : Vector ZosZone 24)
    (h : ∀ z : ZoneNo, (zones.get z).gain = (s.zos.zones.get z).gain) :
    SameInputs s { s with zos := { s.zos with slotOut := slots, zones := zones } } :=
  { SameInputs.refl s with gain := h }

theorem sameInputs_formSlots (s : State) : SameInputs s (formSlots s) :=
  sameInputs_zones _ _ fun z => by
    rw [get_ofFn, framePop]
    split <;> rfl

theorem Move.sameInputs {s t : State} (h : Move s t) : SameInputs s t := by
  cases h with
  | reserve l r =>
    constructor <;> intros <;> simp only [modShadow, get_modAt] <;> split <;> simp_all
  | lmon m hs ho => exact { SameInputs.refl s with
      lineState := fun l => by rw [hs], pickup := fun l => by rw [hs], directedAny := fun l => by rw [hs]
      noPickupFrom := fun l => by rw [hs], idleOrder := ho }
  | addCall | calls | removeCall | parkFill | parkEdit | parkFree => exact { SameInputs.refl s with }
  | deng d h => exact sameInputs_groups h.groups h.permissions h.confirmWindow h.parkTime
  | taken z h => exact sameInputs_zoneTaken z h s
  | freed z => exact sameInputs_zoneFreed z s
  | letting b z => exact sameInputs_zoneLetting b z s
  | pctl p h ht he => exact { SameInputs.refl s with targets := ht, enabled := he }
  | ctp c hp hd => exact { SameInputs.refl s with patterns := hp, directory := hd }
  | amon z f h hc => exact sameInputs_modAmon z h s
  | chains f h hc => exact sameInputs_chains f h s
  | regain z => exact sameInputs_regain z s
  | ramp z n h => exact sameInputs_modZos z (by intro _; rfl) s
  | push v z h => exact sameInputs_modZos z (by intro _; rfl) s
  | slots => exact sameInputs_formSlots s
  | enables => exact { SameInputs.refl s with }
  | notice n => exact sameInputs_raiseNotice n s
  | note fs => exact { SameInputs.refl s with }
  | renew n hf hk =>
    obtain ⟨hc, ht, hd⟩ := hk
    exact { SameInputs.refl s with consumer := hc, threshold := ht, holdoff := hd }

theorem Moves.sameInputs {s t : State} (h : Moves s t) : SameInputs s t := by
  induction h with
  | refl => exact SameInputs.refl s
  | tail _ step ih => exact ih.trans step.sameInputs

end Sys2Proof.Machine
end

section
namespace Sys2Proof.Machine

/-! ### The floor condition (R46) -/

theorem queuedIn_eq_any (g : GroupNo) (cs : List CallRecord) :
    queuedIn g cs = cs.filter fun c => c.state = .queued && c.hunt.any fun h => h.group = g :=
  List.filter_congr fun c _ => by cases hh : c.hunt <;> simp [inGroup, hh]

theorem floorCondition_iff {g : GroupNo} {cs : List CallRecord} {k : HuntGroup} :
    floorCondition g cs k = true ↔ FloorHolds g cs k := by
  have member : ∀ c : CallRecord, inGroup g c = true ↔ ∃ h, c.hunt = some h ∧ h.group = g := fun c => by
    cases hh : c.hunt <;> simp [inGroup, hh]
  have flagged : ∀ c : CallRecord, (inGroup g c && hasFloorFlag c) = true ↔ ∃ h, c.hunt = some h ∧ h.group = g ∧ h.floorFlag = true :=
    fun c => by cases hh : c.hunt <;> simp [inGroup, hasFloorFlag, hh]
  simp only [floorCondition, FloorHolds, Bool.and_eq_true, Bool.or_eq_true, List.any_eq_true, member, flagged, ← queuedIn_eq_any, or_assoc,
    Option.isSome_iff_ne_none, ne_eq, decide_eq_true_eq, decide_not, Bool.not_eq_true', decide_eq_false_iff_not]

section Evaluation

variable {g : GroupNo} {s : State}

/-- An evaluation that finds the condition as it was does nothing. -/
theorem evalFloor_unchanged
    (h : FloorHolds g s.deng.calls (s.deng.groups.get g) ↔ (s.deng.groups.get g).floorCondition = true) : evalFloor g s = s := by
  have same : floorCondition g s.deng.calls (s.deng.groups.get g) = (s.deng.groups.get g).floorCondition :=
    Bool.eq_iff_iff.mpr (floorCondition_iff.trans h)
  simp only [evalFloor, evalFloorOver, same, if_true]

theorem evalFloor_rises (h : FloorHolds g s.deng.calls (s.deng.groups.get g)) (was : (s.deng.groups.get g).floorCondition = false) :
    evalFloor g s = startFloorPage g (modGroup g (fun h => { h with floorCondition := true }) s) := by
  simp [evalFloor, evalFloorOver, floorCondition_iff.mpr h, was]

theorem evalFloor_falls (h : ¬ FloorHolds g s.deng.calls (s.deng.groups.get g)) (was : (s.deng.groups.get g).floorCondition = true) :
    evalFloor g s = endFloorPage g (modGroup g (fun h => { h with floorCondition := false }) s) := by
  have off : floorCondition g s.deng.calls (s.deng.groups.get g) = false := by
    rw [← Bool.not_eq_true]
    exact mt floorCondition_iff.mp h
  simp [evalFloor, evalFloorOver, off, was]

end Evaluation

/-! ### What PCTL has to do, one thing after another -/

section Collect

variable {α : Type} {f : α → State → State × List PageTask}

@[simp] theorem collect_nil (s : State) : collect f [] s = (s, []) := rfl

theorem foldl_collect (xs : List α) (s : State) (ts : List PageTask) :
    xs.foldl (fun acc x => let r := f x acc.1; (r.1, acc.2 ++ r.2)) (s, ts) = ((collect f xs s).1, ts ++ (collect f xs s).2) := by
  induction xs generalizing s ts with
  | nil => rw [collect_nil, List.foldl_nil, List.append_nil]
  | cons x xs ih =>
    have whole : collect f (x :: xs) s = ((collect f xs (f x s).1).1, ([] ++ (f x s).2) ++ (collect f xs (f x s).1).2) := ih _ _
    rw [List.foldl_cons, ih, whole, List.nil_append, List.append_assoc]

theorem collect_cons (x : α) (xs : List α) (s : State) :
    collect f (x :: xs) s = ((collect f xs (f x s).1).1, (f x s).2 ++ (collect f xs (f x s).1).2) := by
  rw [collect, List.foldl_cons, foldl_collect]
  rfl

theorem collect_singleton (x : α) (s : State) : collect f [x] s = f x s := by simp [collect_cons]

/-- Where no operation does anything, nothing happens. -/
theorem collect_idle {xs : List α} {s : State} (h : ∀ x ∈ xs, f x s = (s, [])) : collect f xs s = (s, []) := by
  induction xs with
  | nil => rfl
  | cons x xs ih => rw [collect_cons, h x (by simp), ih fun y hy => h y (by simp [hy])]; rfl

end Collect

/-- A task that leaves nothing to do settles PCTL. -/
theorem settle_one {t : PageTask} {s : State} (h : (pageTask t s).2 = []) : settle [t] s = (pageTask t s).1 := by
  show runTasks 4095 ((pageTask t s).2 ++ []) (pageTask t s).1 = _
  rw [h]
  rfl

/-- A task whose one consequence leaves nothing to do. -/
theorem settle_two {t u : PageTask} {s : State} (h : (pageTask t s).2 = [u]) (hu : (pageTask u (pageTask t s).1).2 = []) :
    settle [t] s = (pageTask u (pageTask t s).1).1 := by
  show runTasks 4095 ((pageTask t s).2 ++ []) (pageTask t s).1 = _
  rw [h]
  show runTasks 4094 ((pageTask u (pageTask t s).1).2 ++ []) (pageTask u (pageTask t s).1).1 = _
  rw [hu]
  rfl

/-! ### A floor-ring page is made (R74, R96) -/

/-- The zones a floor-ring page of a group wants (R77). -/
def floorZones (x : TargetNo) (pr : PagePriority) (s : State) : List ZoneNo :=
  (List.finRange 24).filter fun z => (s.pctl.targets.get x).getLsbD z.val && s.pctl.enabled.get z
    && !(pr = .background && (s.amon.get z).window = .loud)

/-- The record of a floor-ring page, PENDING. -/
def floorRec (g : GroupNo) (x : TargetNo) (k : GroupConfig) (wanted : List ZoneNo) : PageRec :=
  { origin := .group g, target := x, source := .tone k.ringPattern, priority := k.floorPriority, policy := .partialZones
    preamble := 0, trim := 0, state := .pending, wasActive := false, wanted := wanted, endCause := none, maxDuration := 0
    maxAt := none, waitLimit := 0, waitAt := none }

/-- The state with a floor-ring page made in a record. -/
def floorMade (p : PageNo) (g : GroupNo) (x : TargetNo) (k : GroupConfig) (s : State) : State :=
  { raiseNotice (.pageState p .pending none (.group g) k.floorPriority) s with
    pctl := { s.pctl with
      pages := putAt s.pctl.pages p (some (floorRec g x k (floorZones x k.floorPriority s)))
      pageOrder := s.pctl.pageOrder ++ [p] }
    ctp := { s.ctp with
      contexts := putAt s.ctp.contexts p
        { s.ctp.contexts.get p with entry := ClipEntry.initial, playing := .idle, frameDue := false } } }

theorem makePage_floorPage (p : PageNo) {g : GroupNo} {x : TargetNo} {s : State}
    (hx : (s.deng.groups.get g).config.floorTarget = some x) :
    makePage p (floorPage g s) s = floorMade p g x (s.deng.groups.get g).config s := by
  simp only [makePage, floorPage, hx, Option.getD_some, if_true, pageNotice, floorMade, raiseNotice_ntuAfter]
  rfl

/-! ### Free zones taken (R79) -/

/-- A page takes some zones one after another. -/
def zonesTaken (h : Holder) (zs : List ZoneNo) (s : State) : State := zs.foldl (fun s z => zoneTaken z h s) s

theorem zonesTaken_cons (h : Holder) (z : ZoneNo) (zs : List ZoneNo) (s : State) :
    zonesTaken h (z :: zs) s = zonesTaken h zs (zoneTaken z h s) := rfl

/-- Zones that change hands touch the holder table, the overrun marks, AMON's and ZOS's zones, and nothing else. -/
def ZonesOnly (s t : State) : Prop :=
  t = { s with
    pctl := { s.pctl with holders := t.pctl.holders }, ctp := { s.ctp with overrun := t.ctp.overrun }, amon := t.amon, zos := t.zos }

theorem ZonesOnly.refl (s : State) : ZonesOnly s s := rfl

theorem ZonesOnly.trans {s t u : State} (h : ZonesOnly s t) (k : ZonesOnly t u) : ZonesOnly s u := by
  rw [ZonesOnly] at *
  rw [k, h]

theorem zoneTaken_zonesOnly (z : ZoneNo) (h : Holder) (s : State) : ZonesOnly s (zoneTaken z h s) := by
  unfold ZonesOnly zoneTaken freezeTaken
  split <;> rfl

theorem zonesTaken_zonesOnly (h : Holder) (zs : List ZoneNo) (s : State) : ZonesOnly s (zonesTaken h zs s) := by
  induction zs generalizing s with
  | nil => exact ZonesOnly.refl s
  | cons z zs ih => exact (zoneTaken_zonesOnly z h s).trans (ih _)

theorem zoneTaken_holders (z : ZoneNo) (h : Holder) (s : State) :
    (zoneTaken z h s).pctl.holders = putAt s.pctl.holders z (some h) := by
  unfold zoneTaken freezeTaken
  split <;> rfl

theorem zonesTaken_holders (h : Holder) (zs : List ZoneNo) (s : State) (y : ZoneNo) :
    (zonesTaken h zs s).pctl.holders.get y = if y ∈ zs then some h else s.pctl.holders.get y := by
  induction zs generalizing s with
  | nil => rfl
  | cons z zs ih =>
    rw [zonesTaken_cons, ih, zoneTaken_holders, get_putAt]
    by_cases hz : y ∈ zs <;> by_cases e : y = z <;> simp [hz, e]

/-- Zones that are free are taken without anybody losing them. -/
theorem collect_takeZone_free {p : PageNo} {r : PageRec} {zs : List ZoneNo} {s : State} (hn : zs.Nodup)
    (hf : ∀ z ∈ zs, s.pctl.holders.get z = none) :
    collect (takeZone p r) zs s = (zonesTaken ⟨p, r.priority, r.trim, false⟩ zs s, []) := by
  induction zs generalizing s with
  | nil => rfl
  | cons z zs ih =>
    obtain ⟨hz, hzs⟩ := List.nodup_cons.mp hn
    have first : takeZone p r z s = (zoneTaken z ⟨p, r.priority, r.trim, false⟩ s, []) := by
      simp only [takeZone, hf z (by simp)]
    have rest := ih (s := zoneTaken z ⟨p, r.priority, r.trim, false⟩ s) hzs fun y hy => by
      rw [zoneTaken_holders, get_putAt, if_neg (ne_of_mem_of_not_mem hy hz), hf y (by simp [hy])]
    rw [collect_cons, first, rest, zonesTaken_cons]
    rfl

end Sys2Proof.Machine
end

section
namespace Sys2Proof.Machine

/-! ### A floor-ring page starts (R79, R87 to R89, R96, R110) -/

theorem putAt_putAt {α : Type} {n : Nat} (v : Vector α n) (i : Fin n) (x y : α) : putAt (putAt v i x) i y = putAt v i y :=
  vector_ext_get fun j => by by_cases h : j = i <;> simp [h]

theorem modAt_eq_putAt {α : Type} {n : Nat} (v : Vector α n) (i : Fin n) (f : α → α) : modAt v i f = putAt v i (f (v.get i)) := rfl

/-- A live page that is alone in the Page Order is the one a pass visits. -/
theorem passOrder_alone {p : PageNo} {r : PageRec} {s : State} (order : s.pctl.pageOrder = [p])
    (page : s.pctl.pages.get p = some r) (live : livePage r = true) : passOrder s = [p] := by
  cases h : r.priority <;> simp [passOrder, order, page, live, h]

/-- The tone context with which a floor ring starts; a pattern that is empty is silent (R110). -/
def floorTone (t : PatternNo) (s : State) : Playing :=
  let pattern := s.ctp.patterns.get t
  .tone
    { use := .floorRing, pattern := t, step := 0, current := pattern.steps.get 0, left := 80 * (pattern.steps.get 0).duration
      phase := 0, passes := 0, silent := (pattern.steps.get 0).duration = 0 }

/-- The state in which a floor-ring page has become ACTIVE. -/
def floorActive (p : PageNo) (g : GroupNo) (x : TargetNo) (k : GroupConfig) (wanted : List ZoneNo) (s : State) : State :=
  { raiseNotice (.pageState p .active none (.group g) k.floorPriority) s with
    pctl := { s.pctl with
      pages := putAt s.pctl.pages p (some { floorRec g x k wanted with state := .active, wasActive := true }) }
    ctp := { s.ctp with
      contexts := putAt s.ctp.contexts p { s.ctp.contexts.get p with playing := floorTone k.ringPattern s } } }

theorem leavePending_floor {p : PageNo} {g : GroupNo} {x : TargetNo} {k : GroupConfig} {wanted : List ZoneNo} {s : State}
    (page : s.pctl.pages.get p = some (floorRec g x k wanted)) :
    leavePending p s = (floorActive p g x k wanted s, []) := by
  have timer : modPage p (fun r => { r with waitAt := none }) s = s := by
    have same : modAt s.pctl.pages p (Option.map fun r => { r with waitAt := none }) = s.pctl.pages :=
      vector_ext_get fun q => by
        by_cases e : q = p <;> simp [e, page, floorRec]
    rw [modPage, same]
  have entered : modPage p (fun r => { r with
        state := .active, wasActive := true
        maxAt := if r.maxDuration = 0 then none else some (after (1000 * r.maxDuration) s) }) s
      = putPage p (some { floorRec g x k wanted with state := .active, wasActive := true }) s := by
    rw [modPage, modAt_eq_putAt, page]
    rfl
  have active : enterActive p s = (startTone p .floorRing k.ringPattern (pageNotice p (floorRec g x k wanted) .active none
      (putPage p (some { floorRec g x k wanted with state := .active, wasActive := true }) s)), []) := by
    rw [enterActive, page]
    simp only [entered]
    rfl
  have skips : leavePending p s = enterActive p (modPage p (fun r => { r with waitAt := none }) s) := by
    rw [leavePending, page]
    rfl
  rw [skips, timer, active]
  simp only [pageNotice, raiseNotice_ntuAfter, floorActive, startTone, modContext, modAt_eq_putAt]
  rfl

/-- A visit to a floor-ring page whose wanted zones are free. -/
theorem visitPage_floor {p : PageNo} {g : GroupNo} {x : TargetNo} {k : GroupConfig} {wanted : List ZoneNo} {s : State}
    (page : s.pctl.pages.get p = some (floorRec g x k wanted)) (distinct : wanted.Nodup) (free : ∀ z, s.pctl.holders.get z = none) :
    visitPage p s = (if wanted = [] then s
      else floorActive p g x k wanted (zonesTaken ⟨p, k.floorPriority, 0, false⟩ wanted s), []) := by
  have takes : zonesToTake (floorRec g x k wanted) s = wanted := by
    simp [zonesToTake, floorRec, obtainable, free]
  have taken : collect (takeZone p (floorRec g x k wanted)) wanted s
      = (zonesTaken ⟨p, k.floorPriority, 0, false⟩ wanted s, []) := collect_takeZone_free distinct fun z _ => free z
  have page' : (zonesTaken ⟨p, k.floorPriority, 0, false⟩ wanted s).pctl.pages.get p = some (floorRec g x k wanted) := by
    rw [zonesTaken_zonesOnly]
    exact page
  have visit : visitPage p s = if wanted ≠ [] then
      ((leavePending p (zonesTaken ⟨p, k.floorPriority, 0, false⟩ wanted s)).1,
        (leavePending p (zonesTaken ⟨p, k.floorPriority, 0, false⟩ wanted s)).2)
      else (zonesTaken ⟨p, k.floorPriority, 0, false⟩ wanted s, []) := by
    rw [visitPage, page]
    simp only [takes, taken, List.nil_append]
    simp [livePage, floorRec]
  rw [visit, leavePending_floor page']
  by_cases none : wanted = []
  · simp [none, zonesTaken]
  · simp [none]

end Sys2Proof.Machine
end

section
namespace Sys2Proof.Machine

/-! ### A group's condition turned true (R96) -/

theorem ownsPage_iff {g : GroupNo} {s : State} :
    ownsPage g s = true ↔ ∃ q r, s.pctl.pages.get q = some r ∧ r.origin = .group g := by
  simp only [ownsPage, List.any_eq_true, List.mem_finRange, true_and]
  refine exists_congr fun q => ?_
  cases s.pctl.pages.get q <;> simp

theorem floorZones_nodup (x : TargetNo) (pr : PagePriority) (s : State) : (floorZones x pr s).Nodup :=
  (List.nodup_finRange 24).filter _

/-- What a group's floor-ring page gives on a part that has no page: it is page 0; with wanted zones it takes them all and is ACTIVE. -/
structure FloorPageMade (g : GroupNo) (x : TargetNo) (k : GroupConfig) (s t : State) : Prop where
  deng : t.deng = s.deng
  order : t.pctl.pageOrder = [0]
  waitList : t.pctl.waitList = []
  others : ∀ q : PageNo, q ≠ 0 → t.pctl.pages.get q = none
  page : t.pctl.pages.get 0 = some (if floorZones x k.floorPriority s = [] then floorRec g x k (floorZones x k.floorPriority s)
    else { floorRec g x k (floorZones x k.floorPriority s) with state := .active, wasActive := true })
  holders : ∀ z : ZoneNo, t.pctl.holders.get z =
    if z ∈ floorZones x k.floorPriority s then some ⟨0, k.floorPriority, 0, false⟩ else none
  playing : (t.ctp.contexts.get 0).playing = if floorZones x k.floorPriority s = [] then .idle else floorTone k.ringPattern s
  ntu : t.ntu = (raiseAll (.pageState 0 .pending none (.group g) k.floorPriority ::
    if floorZones x k.floorPriority s = [] then [] else [.pageState 0 .active none (.group g) k.floorPriority]) s).ntu
  inputs : SameInputs s t
  ptu : t.ptu = s.ptu
  lmon : t.lmon = s.lmon
  rqu : t.rqu = s.rqu

/-- The page is made in record 0, and the pass that follows visits it alone. -/
theorem startFloorPage_eq {g : GroupNo} {x : TargetNo} {s : State} (hn : NoPages s)
    (hx : (s.deng.groups.get g).config.floorTarget = some x) :
    let k := (s.deng.groups.get g).config
    let zones := floorZones x k.floorPriority s
    startFloorPage g s = if zones = [] then floorMade 0 g x k s
      else floorActive 0 g x k zones (zonesTaken ⟨0, k.floorPriority, 0, false⟩ zones (floorMade 0 g x k s)) := by
  intro k zones
  have free : freePage s = some 0 := by
    rw [freePage, find?_finRange_eq_some]
    exact ⟨by simp [hn.pages], fun j hj => absurd hj (by simp)⟩
  have owns : ownsPage g s = false := by
    rw [← Bool.not_eq_true, ownsPage_iff]
    rintro ⟨q, r, hq, -⟩
    simp [hn.pages] at hq
  have made : startFloorPage g s = settle [.pass] (floorMade 0 g x k s) := by
    rw [startFloorPage, free, owns, ← makePage_floorPage 0 hx]
  have page : (floorMade 0 g x k s).pctl.pages.get 0 = some (floorRec g x k zones) := by simp [floorMade, zones]
  have visits : passOrder (floorMade 0 g x k s) = [0] :=
    passOrder_alone (by simp [floorMade, hn.order]) page rfl
  have pass : pageTask .pass (floorMade 0 g x k s) = (if zones = [] then floorMade 0 g x k s
      else floorActive 0 g x k zones (zonesTaken ⟨0, k.floorPriority, 0, false⟩ zones (floorMade 0 g x k s)), []) := by
    rw [pageTask, acquisitionPass, visits, collect_singleton]
    exact visitPage_floor page (floorZones_nodup _ _ _) hn.holders
  rw [made, settle_one (by rw [pass]), pass]

section Taken

variable (h : Holder) (zs : List ZoneNo) (s : State)

@[simp] theorem zonesTaken_ptu : (zonesTaken h zs s).ptu = s.ptu := by rw [zonesTaken_zonesOnly]
@[simp] theorem zonesTaken_lmon : (zonesTaken h zs s).lmon = s.lmon := by rw [zonesTaken_zonesOnly]
@[simp] theorem zonesTaken_deng : (zonesTaken h zs s).deng = s.deng := by rw [zonesTaken_zonesOnly]
@[simp] theorem zonesTaken_ntu : (zonesTaken h zs s).ntu = s.ntu := by rw [zonesTaken_zonesOnly]
@[simp] theorem zonesTaken_pages : (zonesTaken h zs s).pctl.pages = s.pctl.pages := by rw [zonesTaken_zonesOnly]
@[simp] theorem zonesTaken_pageOrder : (zonesTaken h zs s).pctl.pageOrder = s.pctl.pageOrder := by rw [zonesTaken_zonesOnly]
@[simp] theorem zonesTaken_waitList : (zonesTaken h zs s).pctl.waitList = s.pctl.waitList := by rw [zonesTaken_zonesOnly]
@[simp] theorem zonesTaken_patterns : (zonesTaken h zs s).ctp.patterns = s.ctp.patterns := by rw [zonesTaken_zonesOnly]

end Taken

theorem startFloorPage_made {g : GroupNo} {x : TargetNo} {s : State} (hn : NoPages s)
    (hx : (s.deng.groups.get g).config.floorTarget = some x) :
    FloorPageMade g x (s.deng.groups.get g).config s (startFloorPage g s) := by
  have inputs := (moves_startFloorPage g s).sameInputs
  obtain ⟨-, ptu, rqu⟩ := (moves_startFloorPage g s).fixed
  have e := startFloorPage_eq hn hx
  simp only at e
  generalize (s.deng.groups.get g).config = k at e ⊢
  generalize startFloorPage g s = t at *
  by_cases none : floorZones x k.floorPriority s = []
  · rw [if_pos none] at e
    subst e
    exact
      { deng := by simp [floorMade, raiseNotice_ntuAfter]
        order := by simp [floorMade, hn.order]
        waitList := by simp [floorMade, hn.waitList]
        others := fun q hq => by simp [floorMade, hq, hn.pages]
        page := by simp [floorMade, none]
        holders := fun z => by simp [floorMade, none, hn.holders]
        playing := by simp [floorMade, none]
        ntu := by simp [floorMade, none, raiseAll, raiseNotice_ntuAfter]
        inputs := inputs
        ptu := ptu
        lmon := by simp [floorMade, raiseNotice_ntuAfter]
        rqu := rqu }
  · rw [if_neg none] at e
    subst e
    exact
      { deng := by simp [floorActive, floorMade, raiseNotice_ntuAfter]
        order := by simp [floorActive, floorMade, hn.order]
        waitList := by simp [floorActive, floorMade, hn.waitList]
        others := fun q hq => by simp [floorActive, floorMade, hq, hn.pages]
        page := by simp [floorActive, none]
        holders := fun z => by simp [floorActive, floorMade, zonesTaken_holders, hn.holders]
        playing := by simp [floorActive, floorMade, floorTone, none]
        ntu := by simp [floorActive, floorMade, none, raiseAll, raiseNotice_ntuAfter]
        inputs := inputs
        ptu := ptu
        lmon := by simp [floorActive, floorMade, raiseNotice_ntuAfter]
        rqu := rqu }

end Sys2Proof.Machine
end

section
namespace Sys2Proof.Machine

/-- A group that finds no record, or whose page stands, waits at the tail of the Floor Ring Wait list (R96, R97). -/
theorem startFloorPage_waits {g : GroupNo} {s : State}
    (h : (∀ q, s.pctl.pages.get q ≠ none) ∨ ∃ q r, s.pctl.pages.get q = some r ∧ r.origin = .group g) :
    startFloorPage g s = { s with pctl := { s.pctl with
      waitList := if g ∈ s.pctl.waitList then s.pctl.waitList else s.pctl.waitList ++ [g] } } := by
  have waits : startFloorPage g s = if g ∈ s.pctl.waitList then s
      else { s with pctl := { s.pctl with waitList := s.pctl.waitList ++ [g] } } := by
    obtain full | owns := h
    · rw [startFloorPage, (freePage_none s).mpr fun q => Option.ne_none_iff_isSome.mp (full q)]
    · rw [startFloorPage, ownsPage_iff.mpr owns]
      cases freePage s <;> rfl
  rw [waits]
  by_cases hg : g ∈ s.pctl.waitList
  · rw [if_pos hg, if_pos hg]
  · rw [if_neg hg, if_neg hg]

/-! ### A page that ends holding no zone (R90, R91) -/

theorem pageFreed_of_unlinked {p : PageNo} {r : PageRec} {c : EndCause} {s : State} (h : ∀ n, r.origin ≠ .park n) :
    pageFreed p r c s = recordFreed p r (some c) s := by
  have parks : linkCleared p r c s = s.deng.parks := by
    unfold linkCleared
    split
    · rfl
    · rfl
    · rfl
    · next n hr _ => exact absurd hr (h n)
  rw [pageFreed, parks, recordFreed, raiseNotice_ntuAfter]

theorem heldZones_congr {p : PageNo} {s t : State} (h : t.pctl.holders = s.pctl.holders) : heldZones p t = heldZones p s := by
  rw [heldZones, heldZones, h]

/-- The record of a page that ends holding no zone is taken out and offered to the groups that wait. -/
theorem takeEndCause_eq {p : PageNo} {r : PageRec} {c : EndCause} {s : State} (page : s.pctl.pages.get p = some r)
    (unended : r.endCause = none) (held : heldZones p s = []) (h : ∀ n, r.origin ≠ .park n) :
    takeEndCause p c s = offerRecord (pageFreed p r c s) := by
  have own : ∀ (k : PageRec) (t : State), k.origin = r.origin → reportOwnEnd p k c t = t := fun k t e => by
    unfold reportOwnEnd
    split
    · next n hn => exact absurd (e.symm.trans hn) (h n)
    · rfl
  have empty : ∀ k, heldZones p (putPage p k s) = [] := fun k => (heldZones_congr rfl).trans held
  have taken : takeEndCause p c s = freePageRecord p { r with endCause := some c, wanted := [], waitAt := none, maxAt := none }
      (putPage p (some { r with endCause := some c, wanted := [], waitAt := none, maxAt := none }) s) := by
    rw [takeEndCause, page]
    simp only [unended, own, empty, if_true, Option.isSome_none, Bool.false_eq_true, if_false]
  rw [taken, pageFreed_of_unlinked h, freePageRecord, recordFreed]
  simp only [putPage, putAt_putAt, stopContext, putFetch, modContext, modAt_eq_putAt, pageNotice, raiseNotice_ntuAfter]

theorem offerRecord_of_nobody {s : State} (h : s.pctl.waitList = []) : offerRecord s = (s, []) := by
  simp only [offerRecord, h, List.find?_nil]

/-! ### A group's condition turned false (R97) -/

theorem endFloorPage_leaves {g : GroupNo} {s : State}
    (h : ∀ q r, s.pctl.pages.get q = some r → r.origin = .group g → r.endCause ≠ none) :
    endFloorPage g s = { s with pctl := { s.pctl with waitList := s.pctl.waitList.erase g } } := by
  have none : unendedPage (.group g) s = none := by
    rw [unendedPage, List.find?_eq_none]
    intro q _
    split
    · next r hr => simpa using h q r hr
    · simp
  rw [endFloorPage, none]

theorem endFloorPage_ends {g : GroupNo} {q : PageNo} {r : PageRec} {s : State} (page : s.pctl.pages.get q = some r)
    (origin : r.origin = .group g) (unended : r.endCause = none) (held : heldZones q s = []) (nobody : s.pctl.waitList = [])
    (only : ∀ q' r', s.pctl.pages.get q' = some r' → r'.origin = .group g → r'.endCause = none → q' = q) :
    endFloorPage g s = pageFreed q r .linked s := by
  have found : unendedPage (.group g) s = some q := by
    rw [unendedPage, find?_finRange_eq_some]
    refine ⟨by simp [page, origin, unended], fun j hj => ?_⟩
    split
    · next r' hr' =>
      intro h
      simp only [Bool.and_eq_true, decide_eq_true_eq, Option.isNone_iff_eq_none] at h
      exact hj.ne (only j r' hr' h.1 h.2)
    · simp
  have unlinked : ∀ n, r.origin ≠ .park n := fun n => by simp [origin]
  have waits : (pageFreed q r .linked s).pctl.waitList = [] := nobody
  have task : pageTask (.finish q .linked) s = (pageFreed q r .linked s, []) := by
    rw [pageTask, takeEndCause_eq page unended held unlinked, offerRecord_of_nobody waits]
  rw [endFloorPage, found]
  exact (settle_one (by rw [task])).trans (by rw [task])

end Sys2Proof.Machine
end

section
namespace Sys2Proof.Machine

/-! ### A freed record goes to a group that waits (R91, R97) -/

theorem visitPage_idle {q : PageNo} {s : State}
    (h : ∀ r, s.pctl.pages.get q = some r → r.state ≠ .releasing → zonesToTake r s = []) : visitPage q s = (s, []) := by
  unfold visitPage
  split
  · rfl
  · next r hr =>
    split
    · next live => simp [h r hr (by simpa [livePage] using live)]
    · rfl

theorem zonesToTake_congr {r : PageRec} {s t : State} (h : t.pctl.holders = s.pctl.holders) : zonesToTake r t = zonesToTake r s := by
  have same : ∀ pr z, obtainable pr z t = obtainable pr z s := fun pr z => by rw [obtainable, obtainable, h]
  simp only [zonesToTake, same]

theorem floorZones_congr {x : TargetNo} {pr : PagePriority} {s t : State} (ht : t.pctl.targets = s.pctl.targets)
    (he : t.pctl.enabled = s.pctl.enabled) (ha : t.amon = s.amon) : floorZones x pr t = floorZones x pr s := by
  rw [floorZones, floorZones, ht, he, ha]

theorem find?_behind {α : Type} {f : α → Bool} {ahead behind : List α} {x : α} (ha : ∀ y ∈ ahead, f y = false) (hx : f x = true) :
    (ahead ++ x :: behind).find? f = some x := by
  rw [List.find?_append, List.find?_eq_none.mpr fun y hy => by simp [ha y hy], List.find?_cons, hx]
  rfl

theorem erase_behind {α : Type} [BEq α] [LawfulBEq α] {ahead behind : List α} {x : α} (h : x ∉ ahead) :
    (ahead ++ x :: behind).erase x = ahead ++ behind := by
  rw [List.erase_append_right _ h, List.erase_cons_head]

/-- The first group of the Wait list that owns no page takes the free record. -/
theorem offerRecord_gives {p : PageNo} {g : GroupNo} {x : TargetNo} {ahead behind : List GroupNo} {s : State}
    (hx : (s.deng.groups.get g).config.floorTarget = some x) (list : s.pctl.waitList = ahead ++ g :: behind) (hg : g ∉ ahead)
    (own : ∀ h ∈ ahead, ownsPage h s = true) (owns : ownsPage g s = false) (free : freePage s = some p) :
    offerRecord s = (floorMade p g x (s.deng.groups.get g).config
      { s with pctl := { s.pctl with waitList := ahead ++ behind } }, [.pass]) := by
  have first : s.pctl.waitList.find? (fun h => !ownsPage h s) = some g := by
    rw [list]
    exact find?_behind (fun h hh => by simp [own h hh]) (by simp [owns])
  have rest : s.pctl.waitList.erase g = ahead ++ behind := by rw [list, erase_behind hg]
  rw [offerRecord, first, free]
  simp only [rest]
  rw [← makePage_floorPage p (s := { s with pctl := { s.pctl with waitList := ahead ++ behind } }) hx]
  rfl

/-- A record that is taken out is the one free record of a part whose records were all in use. -/
theorem freePage_recordFreed {p : PageNo} {r : PageRec} {c : Option EndCause} {s : State} (full : ∀ q, s.pctl.pages.get q ≠ none) :
    freePage (recordFreed p r c s) = some p := by
  rw [freePage, find?_finRange_eq_some]
  refine ⟨by simp [recordFreed], fun j hj => ?_⟩
  simp [recordFreed, hj.ne, full j]

theorem ownsPage_recordFreed {p : PageNo} {r : PageRec} {c : Option EndCause} {g : GroupNo} {s : State}
    (page : s.pctl.pages.get p = some r) (origin : r.origin ≠ .group g) :
    ownsPage g (recordFreed p r c s) = ownsPage g s := by
  rw [Bool.eq_iff_iff, ownsPage_iff, ownsPage_iff]
  refine exists_congr fun q => exists_congr fun r' => and_congr_left fun ho => ?_
  by_cases e : q = p
  · subst e
    simp only [recordFreed, get_putAt, if_true, page, Option.some.injEq, reduceCtorEq, false_iff]
    rintro rfl
    exact origin ho
  · simp [recordFreed, e]

/-- A page that ends and whose record a waiting group takes; no page finds a zone to take. -/
theorem endPage_gives {p : PageNo} {r : PageRec} {g : GroupNo} {x : TargetNo} {ahead behind : List GroupNo} {s : State}
    (hx : (s.deng.groups.get g).config.floorTarget = some x) (page : s.pctl.pages.get p = some r) (origin : r.origin = .request)
    (unended : r.endCause = none) (held : heldZones p s = []) (full : ∀ q, s.pctl.pages.get q ≠ none)
    (list : s.pctl.waitList = ahead ++ g :: behind) (hg : g ∉ ahead) (own : ∀ h ∈ ahead, ownsPage h s = true)
    (owns : ownsPage g s = false) (disabled : floorZones x (s.deng.groups.get g).config.floorPriority s = [])
    (idle : ∀ q r', s.pctl.pages.get q = some r' → r'.state ≠ .releasing → zonesToTake r' s = []) :
    endPage p .request s = floorMade p g x (s.deng.groups.get g).config
      { recordFreed p r (some .request) s with pctl :=
        { (recordFreed p r (some .request) s).pctl with waitList := ahead ++ behind } } := by
  have unlinked : ∀ n, r.origin ≠ .park n := fun n => by simp [origin]
  have deng : (recordFreed p r (some .request) s).deng = s.deng := by simp [recordFreed, raiseNotice_ntuAfter]
  have config : ((recordFreed p r (some .request) s).deng.groups.get g).config = (s.deng.groups.get g).config := by rw [deng]
  have ungrouped : ∀ h, r.origin ≠ .group h := fun h => by simp [origin]
  have gives := offerRecord_gives (p := p) (s := recordFreed p r (some .request) s) (by rw [deng]; exact hx)
    (show _ = ahead ++ g :: behind from list) hg (fun h hh => by rw [ownsPage_recordFreed page (ungrouped h), own h hh])
    (by rw [ownsPage_recordFreed page (ungrouped g), owns]) (freePage_recordFreed full)
  rw [config] at gives
  have finish : pageTask (.finish p .request) s = (floorMade p g x (s.deng.groups.get g).config
      { recordFreed p r (some .request) s with pctl :=
        { (recordFreed p r (some .request) s).pctl with waitList := ahead ++ behind } }, [.pass]) := by
    rw [pageTask, takeEndCause_eq page unended held unlinked, pageFreed_of_unlinked unlinked, gives]
  have pass : ∀ t, t = floorMade p g x (s.deng.groups.get g).config
      { recordFreed p r (some .request) s with pctl :=
        { (recordFreed p r (some .request) s).pctl with waitList := ahead ++ behind } } →
      pageTask .pass t = (t, []) := by
    rintro t rfl
    refine collect_idle fun q _ => visitPage_idle fun r' hr' live => ?_
    by_cases e : q = p
    · have wanted : r'.wanted = [] := by
        simp only [floorMade, get_putAt, e, if_true, Option.some.injEq] at hr'
        have same : (recordFreed p r (some .request) s).pctl.targets = s.pctl.targets
            ∧ (recordFreed p r (some .request) s).pctl.enabled = s.pctl.enabled
            ∧ (recordFreed p r (some .request) s).amon = s.amon := by simp [recordFreed, raiseNotice_ntuAfter]
        rw [← hr']
        exact (floorZones_congr same.1 same.2.1 same.2.2).trans disabled
      simp [zonesToTake, wanted]
    · rw [zonesToTake_congr (s := s) (by simp [floorMade, recordFreed])]
      refine idle q r' ?_ live
      simpa [floorMade, recordFreed, e] using hr'
  exact (settle_two (by rw [finish]) (by rw [finish, pass _ rfl])).trans (by rw [finish, pass _ rfl])

end Sys2Proof.Machine
end

section
namespace Sys2Proof.Machine

/-! ### Events that make a group's floor condition true (R96) -/

theorem modAt_modAt {α : Type} {n : Nat} (v : Vector α n) (i : Fin n) (f k : α → α) :
    modAt (modAt v i f) i k = modAt v i fun x => k (f x) :=
  vector_ext_get fun j => by by_cases h : j = i <;> simp [h]

/-- A slot is finished in RQU alone. -/
theorem finishSlot_rqu (n : SlotNo) (x : Reply) {s t : State} (h : t.rqu = s.rqu) :
    finishSlot n x t = { t with rqu := (finishSlot n x s).rqu } := by
  simp only [finishSlot, modSlot, h]

theorem withRqu_eq {t : State} {q : Rqu} (h : t.rqu = q) : { t with rqu := q } = t := by
  subst h
  rfl

/-- What an event does that makes a group's floor condition true, with the blocks' state that the event itself gives DENG and RQU, and
its notices: on a part without pages the group's page is made; else the group waits for a record. -/
def FloorStarts (g : GroupNo) (x : TargetNo) (s : State) (e : Instr) (deng : Deng) (rqu : Rqu) (ns : List Notice) : Prop :=
  let k := (s.deng.groups.get g).config
  let zones := floorZones x k.floorPriority s
  (NoPages s → ∃ t, exec e s = .next t ∧ t.deng = deng ∧ t.pctl.pageOrder = [0] ∧ t.pctl.waitList = []
      ∧ (∀ q, q ≠ 0 → t.pctl.pages.get q = none)
      ∧ t.pctl.pages.get 0 = some (if zones = [] then floorRec g x k zones
          else { floorRec g x k zones with state := .active, wasActive := true })
      ∧ (∀ z, t.pctl.holders.get z = if z ∈ zones then some ⟨0, k.floorPriority, 0, false⟩ else none)
      ∧ (t.ctp.contexts.get 0).playing = (if zones = [] then .idle else floorTone k.ringPattern s)
      ∧ t.ntu = (raiseAll (ns ++ .pageState 0 .pending none (.group g) k.floorPriority ::
          if zones = [] then [] else [.pageState 0 .active none (.group g) k.floorPriority]) s).ntu
      ∧ SameInputs s t ∧ t.ptu = s.ptu ∧ t.lmon = s.lmon ∧ t.rqu = rqu)
    ∧ ((∀ q, s.pctl.pages.get q ≠ none) ∨ (∃ q r, s.pctl.pages.get q = some r ∧ r.origin = .group g) →
      exec e s = .next (raiseAll ns { s with
        deng := deng, rqu := rqu
        pctl := { s.pctl with waitList :=
          if g ∈ s.pctl.waitList then s.pctl.waitList else s.pctl.waitList ++ [g] } }))

theorem floorStarts_of_eval {g : GroupNo} {x : TargetNo} {s : State} {e : Instr} {deng : Deng} {rqu : Rqu} {ns : List Notice} (q : Rqu)
    (hx : (s.deng.groups.get g).config.floorTarget = some x)
    (hk : (deng.groups.get g).config = (s.deng.groups.get g).config) (inputs : SameInputs s { s with deng := deng })
    (he : (startFloorPage g (raiseAll ns { s with deng := deng, rqu := q })).deng = deng →
      exec e s = .next { startFloorPage g (raiseAll ns { s with deng := deng, rqu := q }) with rqu := rqu }) :
    FloorStarts g x s e deng rqu ns := by
  generalize hw : raiseAll ns { s with deng := deng, rqu := q } = w at he
  have config : (w.deng.groups.get g).config = (s.deng.groups.get g).config := by rw [← hw, raiseAll_deng]; exact hk
  have deng_w : w.deng = deng := by rw [← hw, raiseAll_deng]
  have pctl_w : w.pctl = s.pctl := by rw [← hw, raiseAll_pctl]
  have zones_w : floorZones x (s.deng.groups.get g).config.floorPriority w
      = floorZones x (s.deng.groups.get g).config.floorPriority s :=
    floorZones_congr (by rw [pctl_w]) (by rw [pctl_w]) (by rw [← hw, raiseAll_amon])
  refine ⟨fun none => ?_, fun waits => ?_⟩
  · have none_w : NoPages w :=
      ⟨by rw [pctl_w]; exact none.pages, by rw [pctl_w]; exact none.order, by rw [pctl_w]; exact none.holders,
        by rw [pctl_w]; exact none.waitList⟩
    have made := startFloorPage_made none_w (config ▸ hx)
    rw [config] at made
    have tone : floorTone (s.deng.groups.get g).config.ringPattern w = floorTone (s.deng.groups.get g).config.ringPattern s := by
      rw [floorTone, ← hw, raiseAll_ctp]
      rfl
    have before : SameInputs s w := by
      rw [← hw]
      have given : SameInputs s { s with deng := deng, rqu := q } := { inputs with }
      exact given.trans (moves_raiseAll ns _).sameInputs
    refine ⟨_, he (made.deng.trans deng_w), made.deng.trans deng_w, made.order, made.waitList, made.others, zones_w ▸ made.page,
      zones_w ▸ made.holders, by rw [← zones_w, ← tone]; exact made.playing, ?_, ?_, ?_, ?_, rfl⟩
    · rw [made.ntu, zones_w, ← hw]
      simp only [raiseAll_ntuAfter, ntuAfter_ntuAfter]
    · exact before.trans { made.inputs with }
    · rw [made.ptu, ← hw, raiseAll_ptu]
    · rw [made.lmon, ← hw, raiseAll_lmon]
  · have waiting := startFloorPage_waits (g := g) (s := w) (by rw [pctl_w]; exact waits)
    rw [he (by rw [waiting]; exact deng_w), waiting, pctl_w, ← hw]
    simp only [raiseAll_ntuAfter]

theorem groupKeeps_modAt {groups : Vector HuntGroup 64} {g : GroupNo} {f : HuntGroup → HuntGroup}
    (hf : ∀ k, GroupKeeps k (f k)) (x : GroupNo) : GroupKeeps (groups.get x) ((modAt groups g f).get x) := by
  rw [get_modAt]
  split
  · next h => exact h ▸ hf _
  · exact ⟨rfl, fun _ => rfl⟩

/-- A floor delay that runs out (R45). -/
theorem floorStarts_floorDelay {g : GroupNo} {x : TargetNo} {s : State} {c : CallRecord} {h : HuntPart} {e : Nat}
    (hx : (s.deng.groups.get g).config.floorTarget = some x) (off : (s.deng.groups.get g).floorCondition = false)
    (hc : findCall c.ref s = some c) (hh : c.hunt = some h) (hg : h.group = g) (hf : h.floorAt = some e) (he : e ≤ s.ptu.clock)
    (only : ∀ d ∈ s.deng.calls, d.ref = c.ref → d = c) :
    FloorStarts g x s (.floorDelayExpiry c.ref) { s.deng with
      calls := replaced c.ref { c with hunt := some { h with floorAt := none, floorFlag := true } } s
      groups := modAt s.deng.groups g fun h => { h with floorCondition := true } } s.rqu [] := by
  subst hg
  refine floorStarts_of_eval s.rqu hx (by simp) (sameInputs_groups (groupKeeps_modAt fun _ => ⟨rfl, fun _ => rfl⟩) rfl rfl rfl)
    fun _ => ?_
  have flagged : modHunt c.ref (fun h => { h with floorAt := none, floorFlag := true }) s = { s with deng := { s.deng with
      calls := replaced c.ref { c with hunt := some { h with floorAt := none, floorFlag := true } } s } } := by
    have calls := Holds.map_eq ⟨hc, only⟩ fun c => { c with hunt := c.hunt.map fun h => { h with floorAt := none, floorFlag := true } }
    rw [modHunt, modCall, calls, hh]
    rfl
  have holds : FloorHolds h.group (replaced c.ref { c with hunt := some { h with floorAt := none, floorFlag := true } } s)
      (s.deng.groups.get h.group) :=
    ⟨by simp [hx], .inl ⟨_, self_mem_replaced (mem_of_findCall hc) rfl, _, rfl, rfl, rfl⟩⟩
  have run : exec (.floorDelayExpiry c.ref) s
      = .next (evalFloor h.group (modHunt c.ref (fun h => { h with floorAt := none, floorFlag := true }) s)) := by
    show execFloorDelayExpiry c.ref s = _
    simp only [execFloorDelayExpiry, dueCall_eq (timer := (·.floorAt)) hc hh hf he]
  have rises : evalFloor h.group (modHunt c.ref (fun h => { h with floorAt := none, floorFlag := true }) s)
      = startFloorPage h.group (modGroup h.group (fun h => { h with floorCondition := true })
          (modHunt c.ref (fun h => { h with floorAt := none, floorFlag := true }) s)) :=
    evalFloor_rises (by rw [flagged]; exact holds) (by rw [flagged]; exact off)
  rw [run, rises, flagged]
  exact congrArg Host.Outcome.next (withRqu_eq (by rw [(moves_startFloorPage h.group _).fixed.2.2]; rfl)).symm

/-- A command whose handler raises its notices and makes the condition true (R47, R49). -/
theorem floorStarts_of_command {g : GroupNo} {x : TargetNo} {s : State} {e : Instr} {n : SlotNo} {reply : Reply} {deng : Deng}
    {ns : List Notice} (hx : (s.deng.groups.get g).config.floorTarget = some x)
    (hk : (deng.groups.get g).config = (s.deng.groups.get g).config) (inputs : SameInputs s { s with deng := deng })
    (he : (startFloorPage g (raiseAll ns { pointed n s with deng := deng })).deng = deng →
      exec e s = .next (finishSlot n reply (startFloorPage g (raiseAll ns { pointed n s with deng := deng })))) :
    FloorStarts g x s e deng (finishSlot n reply (pointed n s)).rqu ns := by
  refine floorStarts_of_eval (pointed n s).rqu hx hk inputs fun kept => (he kept).trans ?_
  have rqu : (startFloorPage g (raiseAll ns { pointed n s with deng := deng })).rqu = (pointed n s).rqu :=
    (moves_startFloorPage g _).fixed.2.2.trans (raiseAll_rqu ns _)
  rw [finishSlot_rqu n reply rqu]
  rfl

/-- SET_NIGHT of a group with a call (R49). -/
theorem floorStarts_setNight {g : GroupNo} {x : TargetNo} {s : State} {n : SlotNo}
    (hx : (s.deng.groups.get g).config.floorTarget = some x) (off : (s.deng.groups.get g).floorCondition = false)
    (hs : Served 0x05 n s) (hg : bits (s.rqu.slots.get n).snapshot.p0 0 8 = g.val) (day : (s.deng.groups.get g).night = false)
    (call : ∃ d ∈ s.deng.calls, ∃ h, d.hunt = some h ∧ h.group = g) :
    FloorStarts g x s .setNight
      { s.deng with groups := modAt s.deng.groups g fun h => { h with night := true, floorCondition := true } }
      (finishSlot n ⟨.ok, packed [(0, 0)], 0⟩ (pointed n s)).rqu [] := by
  refine floorStarts_of_command hx (by simp) (sameInputs_groups (groupKeeps_modAt fun _ => ⟨rfl, fun _ => rfl⟩) rfl rfl rfl) fun _ => ?_
  have rises : evalFloor g (modGroup g (fun h => { h with night := true }) (pointed n s))
      = startFloorPage g (modGroup g (fun h => { h with floorCondition := true })
          (modGroup g (fun h => { h with night := true }) (pointed n s))) :=
    evalFloor_rises ⟨by simp [modGroup, hx], .inr (.inr ⟨by simp [modGroup], call⟩)⟩ (by simp [modGroup, off])
  rw [exec_setNight hs, setNight_of_group hg, pointed_deng, day, if_neg Bool.false_ne_true, rises]
  simp only [modGroup, modAt_modAt]
  rfl

/-- HUNT of a call that queues and brings the queue to the threshold (R38, R47). -/
theorem floorStarts_hunt {g : GroupNo} {x : TargetNo} {s : State} {n : SlotNo} {caller : Option LineNo}
    (hx : (s.deng.groups.get g).config.floorTarget = some x) (off : (s.deng.groups.get g).floorCondition = false)
    (hs : Served 0x01 n s) (valid : ValidHunt (s.rqu.slots.get n).snapshot g caller (pointed n s)) (hq : CanOnlyQueue g s)
    (alarm : (s.deng.groups.get g).config.alarm ≠ 0)
    (reached : (s.deng.groups.get g).config.alarm ≤ (queueOf g s).length + 1) {r : CallRef} {priority : Fin 4}
    (hr : BitVec.ofNat 16 (bits (s.rqu.slots.get n).snapshot.p0 0 16) = r)
    (hp : Fin.ofNat 4 (bits (s.rqu.slots.get n).snapshot.p1 16 2) = priority) :
    FloorStarts g x s .hunt
      { s.deng with
        calls := s.deng.calls ++ [newQueued r g priority caller s]
        groups := modAt s.deng.groups g fun h => { h with floorCondition := true } }
      (finishSlot n ⟨.ok, packed [(2, 0), (g.val, 8), (0, 16)], packed [(newPlace g priority s, 0)]⟩ (pointed n s)).rqu
      [.queued g (newPlace g priority s) r] := by
  refine floorStarts_of_command hx (by simp) (sameInputs_groups (groupKeeps_modAt fun _ => ⟨rfl, fun _ => rfl⟩) rfl rfl rfl)
    fun kept => ?_
  subst hr hp
  generalize hr : BitVec.ofNat 16 (bits (s.rqu.slots.get n).snapshot.p0 0 16) = r at *
  generalize hp : Fin.ofNat 4 (bits (s.rqu.slots.get n).snapshot.p1 16 2) = priority at *
  have hq' : CanOnlyQueue g (pointed n s) := ⟨hq.noOffer, hq.room⟩
  have new : Unused r (pointed n s) := unused_of_refHeld (hr ▸ valid.new)
  have joins : inGroup g (newQueued r g priority caller (pointed n s)) = true := (inGroup_iff rfl).mpr rfl
  have queue : (queuedIn g (s.deng.calls ++ [newQueued r g priority caller s])).length = (queueOf g s).length + 1 := by
    rw [queueOf, (byPriority_perm _).length_eq, queuedIn, List.filter_append, List.length_append]
    congr 1
    simp [newQueued, inGroup, arrived]
  have holds : FloorHolds g (s.deng.calls ++ [newQueued r g priority caller s]) (s.deng.groups.get g) :=
    ⟨by simp [hx], .inr (.inl ⟨alarm, by rw [← queuedIn_eq_any, queue]; exact reached⟩)⟩
  have queued : grown (newQueued r g priority caller (pointed n s)) [.queued g (newPlace g priority (pointed n s)) r] (pointed n s)
      = raiseAll [.queued g (newPlace g priority s) r]
          { pointed n s with deng := { s.deng with calls := s.deng.calls ++ [newQueued r g priority caller s] } } :=
    grown_eq _ _ _
  have rises : evalFloor g (grown (newQueued r g priority caller (pointed n s)) [.queued g (newPlace g priority (pointed n s)) r]
        (pointed n s))
      = startFloorPage g (raiseAll [.queued g (newPlace g priority s) r] { pointed n s with deng := { s.deng with
          calls := s.deng.calls ++ [newQueued r g priority caller s]
          groups := modAt s.deng.groups g fun h => { h with floorCondition := true } } }) := by
    rw [evalFloor_rises (by rw [queued, raiseAll_deng]; exact holds) (by rw [queued, raiseAll_deng]; exact off), queued]
    simp only [raiseAll_ntuAfter, modGroup]
  have placed := placeHunt_queues new hq' priority caller rises (by rw [kept]; rfl)
  rw [exec_hunt hs, valid.hunt_eq, hr, hp, placed]
  rfl

end Sys2Proof.Machine
end

section
namespace Sys2Proof.Machine

/-! ### Events that make a group's floor condition false (R97) -/

/-- What a command does that makes a group's floor condition false, with the state that the command itself gives DENG: the group
leaves the Wait list, or its page, which holds no zone, is freed. -/
def FloorEnds (g : GroupNo) (s : State) (e : Instr) (n : SlotNo) (reply : Reply) (deng : Deng) : Prop :=
  ((∀ q r, s.pctl.pages.get q = some r → r.origin = .group g → r.endCause ≠ none) →
      exec e s = .next (finishSlot n reply { pointed n s with
        deng := deng, pctl := { s.pctl with waitList := s.pctl.waitList.erase g } }))
    ∧ (∀ q r, s.pctl.pages.get q = some r → r.origin = .group g → r.endCause = none → heldZones q s = [] →
      s.pctl.waitList = [] →
      (∀ q' r', s.pctl.pages.get q' = some r' → r'.origin = .group g → r'.endCause = none → q' = q) →
      exec e s = .next (finishSlot n reply (pageFreed q r .linked { pointed n s with deng := deng })))

theorem floorEnds_of_command {g : GroupNo} {s : State} {e : Instr} {n : SlotNo} {reply : Reply} {deng : Deng}
    (he : (endFloorPage g { pointed n s with deng := deng }).deng.groups = deng.groups →
      (endFloorPage g { pointed n s with deng := deng }).lmon = s.lmon →
      exec e s = .next (finishSlot n reply (endFloorPage g { pointed n s with deng := deng }))) :
    FloorEnds g s e n reply deng := by
  refine ⟨fun leaves => ?_, fun q r page origin unended held nobody only => ?_⟩
  · have left := endFloorPage_leaves (s := { pointed n s with deng := deng }) leaves
    rw [he (by rw [left]) (by rw [left]; rfl), left]
    rfl
  · have freed := endFloorPage_ends (s := { pointed n s with deng := deng }) page origin unended held nobody only
    rw [he (by rw [freed]; rfl) (by rw [freed, pageFreed, recordFreed, raiseNotice_ntuAfter]; rfl), freed]

/-- CANCEL of a call without lines (R19, R46). -/
theorem floorEnds_cancel {g : GroupNo} {s : State} {n : SlotNo} {c : CallRecord} {h : HuntPart}
    (on : (s.deng.groups.get g).floorCondition = true) (hs : Served 0x02 n s)
    (hr : bits (s.rqu.slots.get n).snapshot.p0 0 16 = c.ref.toNat) (hne : c.ref ≠ 0) (hc : findCall c.ref s = some c)
    (hh : c.hunt = some h) (hg : h.group = g) (ringing : c.ringing = []) (reservations : c.reservations = [])
    (falls : ¬ FloorHolds g (s.deng.calls.filter (·.ref ≠ c.ref)) (s.deng.groups.get g)) :
    FloorEnds g s .cancel n ⟨.ok, packed [(c.ref.toNat, 0), (1, 16)], 0⟩ { s.deng with
      calls := s.deng.calls.filter (·.ref ≠ c.ref)
      groups := modAt s.deng.groups g fun h => { h with floorCondition := false } } := by
  subst hg
  refine floorEnds_of_command fun _ _ => ?_
  have quiet : raiseWithdrawals .cancelled c (pointed n s) = pointed n s := by
    simp [raiseWithdrawals, ringing, reservations]
  have evaluated : evalFloor h.group (removeCall c.ref (pointed n s))
      = endFloorPage h.group (modGroup h.group (fun h => { h with floorCondition := false }) (removeCall c.ref (pointed n s))) :=
    evalFloor_falls falls on
  have freed : freeCall c.ref (pointed n s)
      = endFloorPage h.group (modGroup h.group (fun h => { h with floorCondition := false }) (removeCall c.ref (pointed n s))) := by
    have found : findCall c.ref (pointed n s) = some c := hc
    have bare : reservedLines c = [] := by simp [reservedLines, reservations]
    have clear : clearReservations [] (pointed n s) = pointed n s := rfl
    simp only [freeCall, found, hh, bare, clear, evaluated, arbitrateAll_nil]
  have handled : cancel (s.rqu.slots.get n).snapshot (pointed n s)
      = (freeCall c.ref (pointed n s), ⟨.ok, packed [(c.ref.toNat, 0), (1, 16)], 0⟩) := by
    have found : findCall c.ref (pointed n s) = some c := hc
    have ref : (BitVec.ofNat 16 c.ref.toNat : CallRef) = c.ref := by simp
    simp only [cancel, hr, ref, hne, if_false, found, quiet]
  have run : exec .cancel s = .next (finishSlot n (cancel (s.rqu.slots.get n).snapshot (pointed n s)).2
      (cancel (s.rqu.slots.get n).snapshot (pointed n s)).1) := congrArg Host.Outcome.next (command_of_served hs cancel)
  rw [run, handled, freed]
  rfl

/-- Eligibility depends on the members and on the line shadows. -/
theorem eligibleAt_congr {g : GroupNo} {i : MemberPos} {s t : State}
    (hm : (t.deng.groups.get g).members = (s.deng.groups.get g).members) (hl : t.lmon = s.lmon) :
    eligibleAt g i t = eligibleAt g i s := by
  rw [eligibleAt, eligibleAt, isEffective, isEffective, hm, lineFree, lineFree, hl]

/-- SET_DAY of a group without an eligible member (R49). -/
theorem floorEnds_setDay {g : GroupNo} {s : State} {n : SlotNo} (on : (s.deng.groups.get g).floorCondition = true)
    (hs : Served 0x06 n s) (hg : bits (s.rqu.slots.get n).snapshot.p0 0 8 = g.val) (night : (s.deng.groups.get g).night = true)
    (nobody : ∀ i, eligibleAt g i s = false) (falls : ¬ FloorHolds g s.deng.calls { s.deng.groups.get g with night := false }) :
    FloorEnds g s .setDay n ⟨.ok, packed [(1, 0)], 0⟩
      { s.deng with groups := modAt s.deng.groups g fun h => { h with night := false, floorCondition := false } } := by
  refine floorEnds_of_command fun groups lmon => ?_
  have evaluated : evalFloor g (modGroup g (fun h => { h with night := false }) (pointed n s))
      = endFloorPage g { pointed n s with deng := { s.deng with
          groups := modAt s.deng.groups g fun h => { h with night := false, floorCondition := false } } } := by
    rw [evalFloor_falls (by simpa [modGroup] using falls) (by simp [modGroup, on])]
    simp only [modGroup, modAt_modAt]
    rfl
  generalize endFloorPage g { pointed n s with deng := { s.deng with
    groups := modAt s.deng.groups g fun h => { h with night := false, floorCondition := false } } } = t at *
  have none : eligibles g t = [] := List.eq_nil_iff_forall_not_mem.mpr fun i hi => by
    have e : eligibleAt g i t = eligibleAt g i s := eligibleAt_congr (by rw [groups]; simp) lmon
    rw [mem_eligibles, e, nobody i] at hi
    exact Bool.false_ne_true hi
  have day : goDay g (pointed n s) = t := by
    simp only [goDay, evaluated, none, List.foldl_nil]
  rw [exec_setDay hs, setDay_of_group hg, pointed_deng, night, if_pos rfl, day]
  rfl

/-! ### PAGE_END that frees the one free record (R91, R94, R97) -/

theorem pageEnd_request {p : PageNo} {r : PageRec} {q : Params} {s : State} (hp : bits q.p0 0 8 = p.val)
    (page : s.pctl.pages.get p = some r) (origin : r.origin = .request) (unended : r.endCause = none) :
    pageEnd q s = (endPage p .request s, endReply p (endPage p .request s)) := by
  have range : ¬ 15 < p.val := by omega
  have number : Fin.ofNat 16 p.val = p := by simp
  simp only [pageEnd, hp, range, if_false, number, page, origin, unended]

end Sys2Proof.Machine
end

section
namespace Sys2Proof.Machine

theorem disabled_floorZones {x : TargetNo} {pr : PagePriority} {s : State}
    (h : ∀ z : ZoneNo, (s.pctl.targets.get x).getLsbD z.val = true → s.pctl.enabled.get z = false) : floorZones x pr s = [] := by
  rw [floorZones, List.filter_eq_nil_iff]
  intro z _
  cases ht : (s.pctl.targets.get x).getLsbD z.val with
  | false => simp
  | true => simp [h z ht]

theorem recordFreed_floorZones (p : PageNo) (r : PageRec) (c : Option EndCause) {x : TargetNo} {pr : PagePriority} (s : State) :
    floorZones x pr (recordFreed p r c s) = floorZones x pr s :=
  floorZones_congr rfl rfl (by simp [recordFreed, raiseNotice_ntuAfter])

/-- A floor-ring page that wants no zone, made as its group leaves the Wait list. -/
theorem floorMade_of_waiting {p : PageNo} {g : GroupNo} {x : TargetNo} {k : GroupConfig} {list : List GroupNo} {u : State}
    (disabled : floorZones x k.floorPriority u = []) :
    floorMade p g x k { u with pctl := { u.pctl with waitList := list } }
      = { raiseNotice (.pageState p .pending none (.group g) k.floorPriority) u with
          pctl := { u.pctl with
            pages := putAt u.pctl.pages p (some (floorRec g x k [])), pageOrder := u.pctl.pageOrder ++ [p], waitList := list }
          ctp := { u.ctp with
            contexts := putAt u.ctp.contexts p
              { u.ctp.contexts.get p with entry := ClipEntry.initial, playing := .idle, frameDue := false } } } := by
  have zones : floorZones x k.floorPriority { u with pctl := { u.pctl with waitList := list } } = [] :=
    (floorZones_congr rfl rfl rfl).trans disabled
  simp only [floorMade, zones, raiseNotice_ntuAfter]

/-- The freed record goes to the first waiting group that owns no page; the answer finds a page there that has not ended. -/
theorem exec_pageEnd_gives {n : SlotNo} {p : PageNo} {r : PageRec} {g : GroupNo} {x : TargetNo} {ahead behind : List GroupNo}
    {s : State} (hs : Served 0x0C n s) (hx : (s.deng.groups.get g).config.floorTarget = some x)
    (hp : bits (s.rqu.slots.get n).snapshot.p0 0 8 = p.val) (page : s.pctl.pages.get p = some r) (origin : r.origin = .request)
    (unended : r.endCause = none) (held : heldZones p s = []) (full : ∀ q, s.pctl.pages.get q ≠ none)
    (list : s.pctl.waitList = ahead ++ g :: behind) (hg : g ∉ ahead) (own : ∀ h ∈ ahead, ownsPage h s = true)
    (owns : ownsPage g s = false) (disabled : floorZones x (s.deng.groups.get g).config.floorPriority s = [])
    (idle : ∀ q r', s.pctl.pages.get q = some r' → r'.state ≠ .releasing → zonesToTake r' s = []) :
    exec .pageEnd s = .next (finishSlot n ⟨.ok, 0, 0⟩ (floorMade p g x (s.deng.groups.get g).config
      { recordFreed p r (some .request) (pointed n s) with pctl :=
        { (recordFreed p r (some .request) (pointed n s)).pctl with waitList := ahead ++ behind } })) := by
  have gives := endPage_gives (s := pointed n s) hx page origin unended held full list hg own owns disabled idle
  have reply : endReply p (floorMade p g x (s.deng.groups.get g).config
      { recordFreed p r (some .request) (pointed n s) with pctl :=
        { (recordFreed p r (some .request) (pointed n s)).pctl with waitList := ahead ++ behind } }) = ⟨.ok, 0, 0⟩ := by
    simp [endReply, floorMade, floorRec, Reply.bare]
  have run : exec .pageEnd s = .next (finishSlot n (pageEnd (s.rqu.slots.get n).snapshot (pointed n s)).2
      (pageEnd (s.rqu.slots.get n).snapshot (pointed n s)).1) := congrArg Host.Outcome.next (command_of_served hs pageEnd)
  rw [run, pageEnd_request (s := pointed n s) hp page origin unended, gives]
  exact congrArg (fun a => Host.Outcome.next (finishSlot n a _)) reply

/-- Settles O51: what an evaluation finds and does; the events that turn the condition, each by its own evaluation; and the record that
PAGE_END frees. -/
theorem floorPages : Obligations.FloorPages := by
  refine ⟨fun s g => ⟨evalFloor_unchanged, evalFloor_rises, evalFloor_falls⟩, ?_⟩
  intro s g x hx k zones rec0 owns condition inGroup starts ends
  refine ⟨fun off => ⟨?_, ?_, ?_⟩, fun on => ⟨?_, ?_⟩, ?_⟩
  · intro c h e hc hh hg hf he only
    exact floorStarts_floorDelay hx off hc hh hg hf he only
  · intro n hs hg day call
    exact floorStarts_setNight hx off hs hg day call
  · intro n caller hs p r priority hr hg hc hnew hroom hq alarm reached place
    exact floorStarts_hunt hx off hs ⟨hr, hg, hc, hnew, hroom⟩ hq alarm reached rfl rfl
  · intro n c h hs hr hne hc hh hg ringing reservations others falls
    exact floorEnds_cancel on hs hr hne hc hh hg ringing reservations falls
  · intro n hs hg night nobody falls
    exact floorEnds_setDay on hs hg night nobody falls
  · intro n p r ahead behind hs hp page origin unended held full _ list hg own none disabled idle u
    have unowned : ownsPage g s = false := by
      rw [← Bool.not_eq_true, ownsPage_iff]
      exact none
    have empty : floorZones x (s.deng.groups.get g).config.floorPriority s = [] := disabled_floorZones disabled
    have given := exec_pageEnd_gives hs hx hp page origin unended held full list hg (fun h hh => ownsPage_iff.mpr (own h hh)) unowned
      empty idle
    have freed : u = recordFreed p r (some .request) (pointed n s) := pageFreed_of_unlinked fun m => by simp [origin]
    rw [given, freed, floorMade_of_waiting ((recordFreed_floorZones p r (some .request) (pointed n s)).trans empty)]
    rfl

end Sys2Proof.Machine
end

section
namespace Sys2Proof.Machine

/-! ### What the page controller's own work leaves alone

Its operations change the page tables, the players and the output stages, a park's link, the freeze of a zone's noise estimate, and
raise notices that are no CONFIG_FAULT. -/

/-- A CONFIG_FAULT (R164). -/
def isFault (n : Notice) : Bool :=
  match n with
  | .configFault _ => true
  | _ => false

/-- One indivisible change that the page controller's operations are made of. -/
inductive PageStep : State → State → Prop where
  | tables (s : State) (p : Pctl) (c : Ctp) (z : Zos) : PageStep s { s with pctl := p, ctp := c, zos := z }
  | parks (s : State) (v : Vector (Option Park) 16) : PageStep s { s with deng := { s.deng with parks := v } }
  | freeze (s : State) (z : ZoneNo) (f : AmonZone → AmonZone)
      (h : ∀ a, f a = { a with freeze := (f a).freeze, tainted := (f a).tainted }) : PageStep s (modAmon z f s)
  | notice (s : State) (n : Notice) (h : isFault n = false) : PageStep s (raiseNotice n s)

/-- A sequence of such changes. -/
abbrev PageSteps : State → State → Prop := Seq PageStep

/-- What such changes keep, and what they raise. -/
structure PageWork (s t : State) : Prop where
  ptu : t.ptu = s.ptu
  lmon : t.lmon = s.lmon
  deng : t.deng = { s.deng with parks := t.deng.parks }
  noise : ∀ z : ZoneNo, t.amon.get z = { s.amon.get z with freeze := (t.amon.get z).freeze, tainted := (t.amon.get z).tainted }
  notices : ∃ ns, (∀ n ∈ ns, isFault n = false) ∧ t.ntu = ntuAfter ns s.ptu s.ntu

theorem PageWork.refl (s : State) : PageWork s s := ⟨rfl, rfl, rfl, fun _ => rfl, [], by simp, rfl⟩

theorem PageWork.trans {s t u : State} (h : PageWork s t) (k : PageWork t u) : PageWork s u where
  ptu := k.ptu.trans h.ptu
  lmon := k.lmon.trans h.lmon
  deng := by rw [k.deng, h.deng]
  noise z := by rw [k.noise z, h.noise z]
  notices := by
    obtain ⟨ms, hm, em⟩ := h.notices
    obtain ⟨ns, hn, en⟩ := k.notices
    refine ⟨ms ++ ns, fun n hmem => ?_, by rw [en, em, h.ptu, ntuAfter_ntuAfter]⟩
    obtain hm' | hn' := List.mem_append.mp hmem
    · exact hm n hm'
    · exact hn n hn'

theorem PageStep.work {s t : State} (h : PageStep s t) : PageWork s t := by
  cases h with
  | tables p c z => exact { PageWork.refl s with }
  | parks v => exact { PageWork.refl s with deng := rfl }
  | freeze z f h =>
    refine { PageWork.refl s with noise := fun y => ?_ }
    simp only [modAmon, get_modAt]
    split
    · next e => rw [e]; exact h _
    · rfl
  | notice n h =>
    rw [raiseNotice_ntuAfter]
    exact { PageWork.refl s with notices := ⟨[n], by simpa using h, rfl⟩ }

theorem PageSteps.work {s t : State} (h : PageSteps s t) : PageWork s t := by
  induction h with
  | refl => exact PageWork.refl s
  | tail _ step ih => exact ih.trans step.work

/-! ### The page controller's operations, one lemma each -/

theorem pageSteps_tables {s t : State} (h : t = { s with pctl := t.pctl, ctp := t.ctp, zos := t.zos }) : PageSteps s t := by
  rw [h]
  exact .one (.tables s _ _ _)

theorem pageSteps_regain (z : ZoneNo) (s : State) : PageSteps s (regain z s) := pageSteps_tables rfl

theorem pageSteps_zoneTaken (z : ZoneNo) (h : Holder) (s : State) : PageSteps s (zoneTaken z h s) := by
  refine Seq.trans ?_ (pageSteps_regain z _)
  have emptied : PageSteps s (putOverrun z false (emptyFifo z (putHolder z (some h) s))) := pageSteps_tables rfl
  unfold freezeTaken
  exact Seq.ite (fun _ => emptied.then (.freeze _ z _ fun _ => rfl)) fun _ => emptied

theorem pageSteps_zoneFreed (z : ZoneNo) (s : State) : PageSteps s (zoneFreed z s) := by
  have silent : PageSteps s (modZos z (fun x => { x with fifo := [], ga := 0, gt := 0, rampAt := none })
      (putOverrun z false (putHolder z none s))) := pageSteps_tables rfl
  unfold zoneFreed freezeFreed
  split
  · exact Seq.ite (fun _ => silent.then (.freeze _ z _ fun _ => rfl)) fun _ => silent
  · exact silent

theorem pageSteps_zoneLetting (b : Bool) (z : ZoneNo) (s : State) : PageSteps s (zoneLetting b z s) := by
  unfold zoneLetting
  split
  · exact pageSteps_tables rfl
  · exact .refl s

theorem pageSteps_requestFetch (p : PageNo) (s : State) : PageSteps s (requestFetch p s) := by
  unfold requestFetch
  split
  · split
    · exact pageSteps_tables rfl
    · exact .refl s
  · exact .refl s

theorem pageSteps_startClip (p : PageNo) (c : ClipNo) (s : State) : PageSteps s (startClip p c s) :=
  (pageSteps_tables rfl).trans (pageSteps_requestFetch p _)

theorem pageSteps_pageNotice (p : PageNo) (r : PageRec) (v : PageNoticeState) (c : Option EndCause) (s : State) :
    PageSteps s (pageNotice p r v c s) := .one (.notice s _ rfl)

theorem pageSteps_makePage (p : PageNo) (r : PageRec) (s : State) : PageSteps s (makePage p r s) := by
  unfold makePage
  exact (pageSteps_tables rfl).trans (pageSteps_pageNotice _ _ _ _ _)

theorem pageSteps_offerRecord (s : State) : PageSteps s (offerRecord s).1 := by
  unfold offerRecord
  split
  · exact (pageSteps_tables rfl).trans (pageSteps_makePage _ _ _)
  · exact .refl s

theorem pageSteps_freePageRecord (p : PageNo) (r : PageRec) (s : State) : PageSteps s (freePageRecord p r s).1 :=
  ((pageSteps_tables rfl).trans (pageSteps_pageNotice _ _ _ _ _)).trans (pageSteps_offerRecord _)

theorem pageSteps_freeIfEmptied (p : PageNo) (s : State) : PageSteps s (freeIfEmptied p s).1 := by
  unfold freeIfEmptied
  split
  · split
    · exact pageSteps_freePageRecord _ _ s
    · exact .refl s
  · exact .refl s

theorem pageSteps_collect {α : Type} {f : α → State → State × List PageTask} (h : ∀ x s, PageSteps s (f x s).1) (xs : List α)
    (s : State) : PageSteps s (collect f xs s).1 := by
  induction xs generalizing s with
  | nil => exact .refl s
  | cons x xs ih =>
    rw [collect_cons]
    exact (h x s).trans (ih _)

theorem pageSteps_takeZone (p : PageNo) (r : PageRec) (z : ZoneNo) (s : State) : PageSteps s (takeZone p r z s).1 := by
  unfold takeZone
  split
  · exact pageSteps_zoneTaken z _ s
  · refine Seq.trans (Seq.trans ?_ (pageSteps_zoneTaken z _ _)) (pageSteps_freeIfEmptied _ _)
    exact Seq.ite (fun _ => .one (.notice s _ rfl)) fun _ => .refl s

theorem pageSteps_enterActive (p : PageNo) (s : State) : PageSteps s (enterActive p s).1 := by
  unfold enterActive
  split
  · exact .refl s
  · have entered : ∀ r : PageRec, PageSteps s (pageNotice p r .active none (modPage p (fun r => { r with
        state := .active, wasActive := true
        maxAt := if r.maxDuration = 0 then none else some (after (1000 * r.maxDuration) s) }) s)) := fun r =>
      (pageSteps_tables rfl).trans (pageSteps_pageNotice _ _ _ _ _)
    dsimp only
    split
    · exact (entered _).trans (pageSteps_tables rfl)
    · exact (entered _).trans (pageSteps_startClip _ _ _)
    · exact (entered _).trans (pageSteps_tables rfl)
    · split <;> exact (entered _).trans (pageSteps_tables rfl)

theorem pageSteps_leavePending (p : PageNo) (s : State) : PageSteps s (leavePending p s).1 := by
  unfold leavePending
  split
  · exact .refl s
  · dsimp only
    split
    · exact ((pageSteps_tables rfl).trans (pageSteps_pageNotice _ _ _ _ _)).trans (pageSteps_tables rfl)
    · exact (pageSteps_tables rfl).trans (pageSteps_enterActive _ _)

theorem pageSteps_visitPage (p : PageNo) (s : State) : PageSteps s (visitPage p s).1 := by
  unfold visitPage
  split
  · exact .refl s
  · next r _ =>
    have taken := pageSteps_collect (pageSteps_takeZone p r) (zonesToTake r s) s
    split
    · dsimp only
      split
      · exact taken.trans (pageSteps_leavePending p _)
      · exact taken
    · exact .refl s

theorem pageSteps_zeroReport (z : ZoneNo) (s : State) : PageSteps s (zeroReport z s).1 := by
  unfold zeroReport
  split
  · split
    · exact (pageSteps_zoneFreed z s).trans (pageSteps_freeIfEmptied _ _)
    · exact .refl s
  · exact .refl s

theorem pageSteps_reportOwnEnd (p : PageNo) (r : PageRec) (c : EndCause) (s : State) : PageSteps s (reportOwnEnd p r c s) := by
  unfold reportOwnEnd clearParkLink
  split
  · refine Seq.ite (fun _ => .refl s) fun _ => ?_
    split
    · exact Seq.ite (fun _ => .one (.parks s _)) fun _ => .refl s
    · exact .refl s
  · exact .refl s

theorem pageSteps_takeEndCause (p : PageNo) (c : EndCause) (s : State) : PageSteps s (takeEndCause p c s).1 := by
  unfold takeEndCause
  split
  · exact .refl s
  · next r _ =>
    have reported : PageSteps s (reportOwnEnd p { r with endCause := some c, wanted := [], waitAt := none, maxAt := none } c
        (putPage p (some { r with endCause := some c, wanted := [], waitAt := none, maxAt := none }) s)) :=
      (pageSteps_tables rfl).trans (pageSteps_reportOwnEnd _ _ _ _)
    split
    · exact .refl s
    · dsimp only
      split
      · exact reported.trans (pageSteps_freePageRecord _ _ _)
      · refine Seq.trans ?_ (Seq.foldl (fun s z => pageSteps_zoneLetting true z s) _ _)
        exact (reported.trans (pageSteps_tables rfl)).trans (pageSteps_pageNotice _ _ _ _ _)

theorem pageSteps_pageTask (t : PageTask) (s : State) : PageSteps s (pageTask t s).1 := by
  cases t with
  | pass => exact pageSteps_collect pageSteps_visitPage _ s
  | zero z => exact pageSteps_zeroReport z s
  | finish p c => exact pageSteps_takeEndCause p c s

theorem pageSteps_runTasks (n : Nat) (ts : List PageTask) (s : State) : PageSteps s (runTasks n ts s) := by
  induction n generalizing ts s with
  | zero => exact .refl s
  | succ n ih =>
    cases ts with
    | nil => exact .refl s
    | cons t ts => exact (pageSteps_pageTask t s).trans (ih _ _)

theorem pageSteps_settle (ts : List PageTask) (s : State) : PageSteps s (settle ts s) := pageSteps_runTasks _ ts s

theorem pageSteps_reviseZone (p : PageNo) (r : PageRec) (why : ZoneLostReason) (z : ZoneNo) (s : State) :
    PageSteps s (reviseZone p r why z s) := by
  unfold reviseZone
  split
  · exact .refl s
  · refine Seq.ite (fun _ => Seq.ite (fun _ => pageSteps_zoneLetting _ _ s) fun _ => .refl s) fun _ => ?_
    exact Seq.ite (fun _ => .refl s) fun _ => (Seq.one (.notice s _ rfl)).trans (pageSteps_zoneLetting _ _ _)

theorem pageSteps_refreshPage (why : ZoneLostReason) (p : PageNo) (s : State) : PageSteps s (refreshPage why p s).1 := by
  unfold refreshPage
  split
  · exact .refl s
  · split
    · dsimp only
      split
      · exact .refl s
      · exact (pageSteps_tables rfl).trans (Seq.foldl (fun s z => pageSteps_reviseZone p _ why z s) _ _)
    · exact .refl s

theorem pageSteps_refreshWanted (why : ZoneLostReason) (f : PageRec → Bool) (s : State) : PageSteps s (refreshWanted why f s) :=
  (pageSteps_collect (pageSteps_refreshPage why) _ s).trans (pageSteps_settle _ _)

theorem pageSteps_disableHeld (z : ZoneNo) (s : State) : PageSteps s (disableHeld z s).1 := by
  unfold disableHeld
  split
  · exact .refl s
  · refine Seq.trans (Seq.trans ?_ (pageSteps_zoneFreed z _)) (pageSteps_freeIfEmptied _ _)
    exact Seq.ite (fun _ => .one (.notice s _ rfl)) fun _ => .refl s

theorem pageSteps_setZoneEnable (z : ZoneNo) (b : Bool) (s : State) : PageSteps s (setZoneEnable z b s) := by
  have written : PageSteps s { s with pctl := { s.pctl with enabled := putAt s.pctl.enabled z b } } := pageSteps_tables rfl
  unfold setZoneEnable
  refine Seq.ite (fun _ => .refl s) fun _ => ?_
  refine Seq.trans (Seq.trans ?_ (pageSteps_collect (pageSteps_refreshPage _) _ _)) (pageSteps_settle _ _)
  split
  · exact written
  · exact written.trans (pageSteps_disableHeld z _)

theorem pageSteps_startFloorPage (g : GroupNo) (s : State) : PageSteps s (startFloorPage g s) := by
  unfold startFloorPage
  split
  · exact (pageSteps_makePage _ _ s).trans (pageSteps_settle _ _)
  · exact Seq.ite (fun _ => .refl s) fun _ => pageSteps_tables rfl

theorem pageSteps_endFloorPage (g : GroupNo) (s : State) : PageSteps s (endFloorPage g s) := by
  unfold endFloorPage
  split
  · exact pageSteps_settle _ s
  · exact pageSteps_tables rfl

end Sys2Proof.Machine
end

section
namespace Sys2Proof.Machine

/-! ### A word written in service (R173, R175) -/

theorem holdDue_of_portFree {s : State} (h : PortFree s) : holdDue s = false := by
  obtain off | marked := h.noHold
  · simp [holdDue, off]
  · simp [holdDue, marked]

/-- An owner that keeps PTU acts on the state with the word taken. -/
theorem access_owner {w : Watched} {d : Word} {be : ByteEnables} {s : State} (ready : s.ptu.mode = .ready) (port : PortFree s)
    (live : ∀ k i, w ≠ .live k i) (owns : Owns (writeTaken w d be s) (ownerActs w be (writeTaken w d be s))) :
    access (.watched w d be) s = ownerActs w be (writeTaken w d be s) := by
  have carried : carry (.watched w d be) s = ownerActs w be (writeTaken w d be s) := by
    have word : wordWrite w d be s = watchedWrite w d be (ownerActs w be) s := by
      cases w with
      | live k i => exact absurd rfl (live k i)
      | _ => rfl
    rw [carry, word, watchedWrite, ready]
    rfl
  rw [access_free _ s port.burst port.waiting (holdDue_of_portFree port), carried]
  have waiting : (ownerActs w be (writeTaken w d be s)).ptu.waiting = [] := by
    rw [owns.fixed.2.1]
    exact port.waiting
  generalize ownerActs w be (writeTaken w d be s) = t at waiting
  rw [← waiting]

/-- The faults of one decode, in service. -/
theorem configFaults_ready {s : State} (ready : s.ptu.mode = .ready) (region : FaultRegion) (index : Nat) (fs : List FaultField) :
    configFaults region index fs s = raiseAll (fs.map fun f => .configFault ⟨region, f, index⟩) s := by
  induction fs generalizing s with
  | nil => rfl
  | cons f fs ih =>
    have first : configFault region index s f = raiseNotice (.configFault ⟨region, f, index⟩) s := by
      simp only [configFault, stepFault, ready]
    rw [configFaults, List.foldl_cons, first]
    exact ih (by rw [raiseNotice_ptu, ready])

theorem sameInputs_of_ptu {s t : State} (h : t = { s with ptu := t.ptu }) : SameInputs s t := by
  rw [h]
  exact { SameInputs.refl s with }

/-! ### A page target (R75) -/

theorem pageTarget_written (x : TargetNo) (d : Word) (be : ByteEnables) {s : State} (ready : s.ptu.mode = .ready) (port : PortFree s) :
    ∃ t, exec (.pageTargetWrite x d be) s = .next t ∧ t.ptu = (writeTaken (.target x) d be s).ptu ∧ t.rqu = s.rqu
      ∧ SameInputs { s with pctl := { s.pctl with targets :=
          (putAt s.pctl.targets x ((copyOf (.target x) (writeTaken (.target x) d be s)).extractLsb' 0 24)) } } t := by
  have owns := owns_targetWritten x (writeTaken (.target x) d be s)
  refine ⟨_, congrArg Host.Outcome.next (access_owner ready port (by simp) owns), owns.fixed.2.1, owns.fixed.2.2, ?_⟩
  have bits : ∀ w : Word, w.setWidth 24 = w.extractLsb' 0 24 := fun w => BitVec.setWidth_eq_extractLsb' (by omega)
  show SameInputs _ (targetWritten x (writeTaken (.target x) d be s))
  rw [targetWritten, bits]
  exact SameInputs.trans (sameInputs_of_ptu rfl) (moves_refreshWanted _ _ _).sameInputs

end Sys2Proof.Machine
end

section
namespace Sys2Proof.Machine

/-! ### The surplus of a shortened queue (R40) -/

theorem mem_queueOf {g : GroupNo} {c : CallRecord} {s : State} :
    c ∈ queueOf g s ↔ c ∈ s.deng.calls ∧ c.state = .queued ∧ inGroup g c = true := by
  rw [queueOf, (byPriority_perm _).mem_iff, queuedIn, List.mem_filter, Bool.and_eq_true, decide_eq_true_eq]

theorem hunt_of_inGroup {g : GroupNo} {c : CallRecord} (h : inGroup g c = true) : ∃ k, c.hunt = some k ∧ k.group = g := by
  cases hh : c.hunt <;> simp_all [inGroup]

theorem byPriority_filter (p : CallRecord → Bool) (cs : List CallRecord) : byPriority (cs.filter p) = (byPriority cs).filter p := by
  simp [byPriority, List.filter_append, List.filter_filter, Bool.and_comm]

theorem queuedIn_filter (g : GroupNo) (p : CallRecord → Bool) (cs : List CallRecord) :
    queuedIn g (cs.filter p) = (queuedIn g cs).filter p := by
  simp [queuedIn, List.filter_filter, Bool.and_comm]

/-- Different records hold different references. -/
def DistinctRefs (s : State) : Prop := (s.deng.calls.map (·.ref)).Nodup

theorem DistinctRefs.only {c : CallRecord} {s : State} (h : DistinctRefs s) (hc : c ∈ s.deng.calls) :
    ∀ d ∈ s.deng.calls, d.ref = c.ref → d = c := fun _ hd e => List.inj_on_of_nodup_map h hd hc e

theorem DistinctRefs.found {c : CallRecord} {s : State} (h : DistinctRefs s) (hc : c ∈ s.deng.calls) : findCall c.ref s = some c :=
  find?_ref_of_mem hc rfl (h.only hc)

/-- The state with the calls given and some notices raised. -/
def shed (calls : List CallRecord) (ns : List Notice) (s : State) : State :=
  raiseAll ns { s with deng := { s.deng with calls := calls } }

@[simp] theorem shed_calls (calls : List CallRecord) (ns : List Notice) (s : State) : (shed calls ns s).deng.calls = calls := by
  rw [shed, raiseAll_deng]

@[simp] theorem shed_groups (calls : List CallRecord) (ns : List Notice) (s : State) :
    (shed calls ns s).deng.groups = s.deng.groups := by
  rw [shed, raiseAll_deng]

theorem shed_shed (calls calls' : List CallRecord) (ns ns' : List Notice) (s : State) :
    shed calls' ns' (shed calls ns s) = shed calls' (ns ++ ns') s := by
  simp only [shed, raiseAll_ntuAfter, ntuAfter_ntuAfter]

theorem outcome_shed (calls : List CallRecord) (ns : List Notice) (s : State) :
    outcome (unreserved [] s) calls s.deng.groups ns s = shed calls ns s := by
  have same : (Vector.ofFn fun k => { s.lmon.shadows.get k with reservation := unreserved [] s k }) = s.lmon.shadows :=
    vector_ext_get fun k => by simp [unreserved]
  rw [outcome_eq, same, shed, raiseAll_ntuAfter]

/-- A call without lines that leaves its queue by a deflection, in service of no HUNT (R44). -/
theorem deflect_bare {c : CallRecord} {h : HuntPart} {s : State} (hc : findCall c.ref s = some c) (hh : c.hunt = some h)
    (hf : FloorOff h.group s) (ringing : c.ringing = []) (reservations : c.reservations = []) (why : DeflectReason) :
    (deflect false c.ref h why s).1
      = shed (s.deng.calls.filter (·.ref ≠ c.ref)) [.deflect h.group h.hops.val why c.ref] s := by
  rw [deflect_eq false why hc hh hf, ← outcome_shed]
  simp only [reservedLines, withdrawals, ringing, reservations, List.map_nil, arbitrateAll_nil]
  rfl

/-- What makes the surplus of a group's queue leave by deflections. -/
structure ShedsByDeflection (g : GroupNo) (s : State) : Prop where
  off : FloorOff g s
  target : (s.deng.groups.get g).config.overflowTarget = none
  refs : DistinctRefs s
  bare : ∀ q ∈ queueOf g s, q.ringing = [] ∧ q.reservations = []

/-- The calls beyond the capacity, from the tail. -/
def surplusOf (g : GroupNo) (s : State) : List CallRecord :=
  ((queueOf g s).drop (s.deng.groups.get g).config.capacity).reverse

/-- DEFLECT of a call that leaves the queue. -/
def deflection (g : GroupNo) (q : CallRecord) : Option Notice := q.hunt.map fun k => .deflect g k.hops.val .noTarget q.ref

theorem shedSurplus_short {g : GroupNo} {s : State} (h : (queueOf g s).length ≤ (s.deng.groups.get g).config.capacity) (n : Nat) :
    shedSurplus n g s = s := by
  cases n with
  | zero => rfl
  | succ n => rw [shedSurplus, if_pos h]

/-- The queue without its last call. -/
theorem queueOf_removed {g : GroupNo} {rest : List CallRecord} {c : CallRecord} {s : State} (hd : DistinctRefs s)
    (hq : queueOf g s = rest ++ [c]) (ns : List Notice) :
    queueOf g (shed (s.deng.calls.filter (·.ref ≠ c.ref)) ns s) = rest := by
  have refs : ((queueOf g s).map (·.ref)).Nodup := by
    have sub : ((queuedIn g s.deng.calls).map (·.ref)).Nodup := List.Nodup.sublist (List.filter_sublist.map _) hd
    exact ((byPriority_perm _).map _).nodup_iff.mpr sub
  have other : ∀ d ∈ rest, d.ref ≠ c.ref := fun d hdm e => by
    rw [hq, List.map_append, List.nodup_append] at refs
    exact refs.2.2 d.ref (List.mem_map_of_mem hdm) c.ref (by simp) e
  have out : queueOf g (shed (s.deng.calls.filter (·.ref ≠ c.ref)) ns s) = (queueOf g s).filter (·.ref ≠ c.ref) := by
    rw [queueOf, shed_calls, queuedIn_filter, byPriority_filter, queueOf]
  rw [out, hq, List.filter_append, List.filter_eq_self.mpr fun d hdm => by simpa using other d hdm]
  simp

theorem surplusOf_short {g : GroupNo} {s : State} (h : (queueOf g s).length ≤ (s.deng.groups.get g).config.capacity) :
    surplusOf g s = [] := by
  rw [surplusOf, List.drop_eq_nil_of_le h, List.reverse_nil]

section Last

variable {g : GroupNo} {rest : List CallRecord} {c : CallRecord} {s : State}

/-- The last call of a queue that is too long is the first of the surplus. -/
theorem surplusOf_last (hd : DistinctRefs s) (hq : queueOf g s = rest ++ [c])
    (long : (s.deng.groups.get g).config.capacity ≤ rest.length) (ns : List Notice) :
    surplusOf g s = c :: surplusOf g (shed (s.deng.calls.filter (·.ref ≠ c.ref)) ns s) := by
  rw [surplusOf, surplusOf, queueOf_removed hd hq, shed_groups, hq, List.drop_append_of_le_length long, List.reverse_append]
  rfl

/-- The calls that remain once the last of the queue and the others of the surplus have left. -/
theorem filter_surplus (hd : DistinctRefs s) (hc : c ∈ s.deng.calls) (cs : List CallRecord) :
    (s.deng.calls.filter (·.ref ≠ c.ref)).filter (· ∉ cs) = s.deng.calls.filter (· ∉ c :: cs) := by
  rw [List.filter_filter]
  refine List.filter_congr fun d hdm => ?_
  have same : d.ref = c.ref ↔ d = c := ⟨hd.only hc d hdm, fun e => by rw [e]⟩
  simp [same, Bool.and_comm]

theorem ShedsByDeflection.next (h : ShedsByDeflection g s) (hq : queueOf g s = rest ++ [c]) (ns : List Notice) :
    ShedsByDeflection g (shed (s.deng.calls.filter (·.ref ≠ c.ref)) ns s) where
  off := h.off.of_groups (by rw [shed_groups])
  target := by rw [shed_groups]; exact h.target
  refs := by
    rw [DistinctRefs, shed_calls]
    exact h.refs.sublist (List.filter_sublist.map _)
  bare q hqm := by
    rw [queueOf_removed h.refs hq] at hqm
    exact h.bare q (by rw [hq]; exact List.mem_append_left _ hqm)

end Last

theorem shedSurplus_deflects {g : GroupNo} (n : Nat) {s : State} (h : ShedsByDeflection g s)
    (enough : (queueOf g s).length ≤ (s.deng.groups.get g).config.capacity + n) :
    shedSurplus n g s = shed (s.deng.calls.filter (· ∉ surplusOf g s)) ((surplusOf g s).filterMap (deflection g)) s := by
  induction n generalizing s with
  | zero =>
    rw [surplusOf_short enough]
    simp [shedSurplus, shed]
  | succ n ih =>
    by_cases short : (queueOf g s).length ≤ (s.deng.groups.get g).config.capacity
    · rw [shedSurplus_short short, surplusOf_short short]
      simp [shed]
    · obtain hq | ⟨rest, c, hq⟩ := (queueOf g s).eq_nil_or_concat'
      · simp [hq] at short
      · have long : (s.deng.groups.get g).config.capacity ≤ rest.length := by simp [hq] at short; omega
        have queued : c ∈ queueOf g s := by simp [hq]
        obtain ⟨hc, -, hin⟩ := mem_queueOf.mp queued
        obtain ⟨k, hh, rfl⟩ := hunt_of_inGroup hin
        obtain ⟨ringing, reservations⟩ := h.bare c queued
        have left := deflect_bare (h.refs.found hc) hh h.off ringing reservations .noTarget
        have step : shedSurplus (n + 1) k.group s = shedSurplus n k.group
            (shed (s.deng.calls.filter (·.ref ≠ c.ref)) [.deflect k.group k.hops.val .noTarget c.ref] s) := by
          rw [shedSurplus, if_neg short, hq, List.getLast?_concat]
          simp only [hh, h.target, left]
        have notice : deflection k.group c = some (.deflect k.group k.hops.val .noTarget c.ref) := by simp [deflection, hh]
        rw [step, ih (h.next hq _) (by rw [queueOf_removed h.refs hq, shed_groups]; simp [hq] at enough; omega), shed_shed, shed_calls,
          filter_surplus h.refs hc, ← surplusOf_last h.refs hq long]
        congr 1
        rw [surplusOf_last h.refs hq long [.deflect k.group k.hops.val .noTarget c.ref], List.filterMap_cons, notice]
        rfl

/-- A queued call without lines overflows into another group that queues it (R38, R43). -/
theorem overflowCall_queues {q : CallRecord} {k : HuntPart} {x : GroupNo} {s : State} (hd : DistinctRefs s) (hq : q ∈ s.deng.calls)
    (queued : q.state = .queued) (ringing : q.ringing = []) (reservations : q.reservations = []) (hk : q.hunt = some k)
    (hops : k.hops.val < 4) (off : FloorOff k.group s) (floor : FloorOff x s) (room : CanOnlyQueue x s) (hx : x ≠ k.group) :
    overflowCall q.ref k x s = shed (replaced q.ref { q with hunt := some (arrived x (Fin.ofNat 5 (k.hops.val + 1)) k s) } s)
      [.overflow k.group x (k.hops.val + 1) q.ref, .queued x (placeIn q.ref x
        (replaced q.ref { q with hunt := some (arrived x (Fin.ofNat 5 (k.hops.val + 1)) k s) } s)) q.ref] s := by
  have record : ({ q with
      state := .queued, ringing := [], reservations := []
      hunt := some (arrived x (Fin.ofNat 5 (k.hops.val + 1)) k s) } : CallRecord)
      = { q with hunt := some (arrived x (Fin.ofNat 5 (k.hops.val + 1)) k s) } := by
    rw [← queued, ← ringing, ← reservations]
  have flown := (overflown_of_overflowCall (hd.found hq) hk x off).1 hops (hd.only hq) floor room (.inr hx.symm) (.inl reservations)
  simp only [record] at flown
  rw [flown, ← outcome_shed, reservations, List.map_nil]
  simp only [withdrawals, ringing, reservations, List.map_nil, List.nil_append, queuePosition_eq]

/-- The queue that a call has left by an overflow into another group. -/
theorem queueOf_departed {g : GroupNo} {rest : List CallRecord} {q c : CallRecord} {s : State} (hd : DistinctRefs s)
    (hq : queueOf g s = rest ++ [q]) (hc : inGroup g c = false) (ns : List Notice) :
    queueOf g (shed (replaced q.ref c s) ns s) = rest := by
  have same : queuedIn g (replaced q.ref c s) = queuedIn g (s.deng.calls.filter (·.ref ≠ q.ref)) := by
    rw [queuedIn, queuedIn, replaced]
    induction s.deng.calls with
    | nil => rfl
    | cons e es ih => by_cases h : e.ref = q.ref <;> simp [h, hc, List.filter_cons, ih]
  rw [← queueOf_removed hd hq ns, queueOf, queueOf, shed_calls, shed_calls, same]

end Sys2Proof.Machine
end

section
namespace Sys2Proof.Machine

/-! ### A group header written in service (R21, R40) -/

section Header

variable (g : GroupNo) (i : Fin 8) (d : Word) (be : ByteEnables) {s : State}

theorem exec_groupHeaderWrite (ready : s.ptu.mode = .ready) (port : PortFree s) :
    exec (.groupHeaderWrite g i d be) s = .next (headerWritten g (writeTaken (.header g i) d be s)) :=
  congrArg Host.Outcome.next (access_owner ready port (by simp) (owns_headerWritten g _))

/-- The configuration that a header write gives. -/
def headerTaken (s : State) : GroupConfig := headerDecodes g (writeTaken (.header g i) d be s)

/-- The faults that a header write raises. -/
def headerNotices (s : State) : List Notice :=
  (headerFaults (copyOf (.header g 0) (writeTaken (.header g i) d be s)) (copyOf (.header g 1) (writeTaken (.header g i) d be s))
    (copyOf (.header g 2) (writeTaken (.header g i) d be s))).map fun f => .configFault ⟨.groupHeader, f, g.val⟩

theorem headerDecoded_eq (ready : s.ptu.mode = .ready) :
    headerDecoded g (writeTaken (.header g i) d be s) = raiseAll (headerNotices g i d be s)
      (modGroup g (fun h => { h with config := headerTaken g i d be s }) (writeTaken (.header g i) d be s)) :=
  configFaults_ready (s := modGroup g (fun h => { h with config := headerTaken g i d be s }) (writeTaken (.header g i) d be s)) ready
    .groupHeader g.val _

/-- A header write with the calls and the notices that it leads to. -/
theorem shed_headerDecoded (ready : s.ptu.mode = .ready) (calls : List CallRecord) (ns : List Notice) :
    shed calls ns (headerDecoded g (writeTaken (.header g i) d be s))
      = { raiseAll (headerNotices g i d be s ++ ns) (writeTaken (.header g i) d be s) with
          deng := { s.deng with
            calls := calls
            groups := (putAt s.deng.groups g { s.deng.groups.get g with config := headerTaken g i d be s }) } } := by
  rw [headerDecoded_eq g i d be ready]
  simp only [shed, raiseAll_ntuAfter, ntuAfter_ntuAfter, modGroup]
  rfl

theorem headerDecoded_calls (ready : s.ptu.mode = .ready) :
    (headerDecoded g (writeTaken (.header g i) d be s)).deng.calls = s.deng.calls := by
  rw [headerDecoded_eq g i d be ready, raiseAll_deng]
  rfl

theorem headerDecoded_groups (ready : s.ptu.mode = .ready) (x : GroupNo) :
    (headerDecoded g (writeTaken (.header g i) d be s)).deng.groups.get x
      = if x = g then { s.deng.groups.get g with config := headerTaken g i d be s } else s.deng.groups.get x := by
  rw [headerDecoded_eq g i d be ready, raiseAll_deng]
  exact get_modAt _ _ _ _

theorem headerDecoded_queueOf (ready : s.ptu.mode = .ready) (x : GroupNo) :
    queueOf x (headerDecoded g (writeTaken (.header g i) d be s)) = queueOf x s := by
  rw [queueOf, queueOf, headerDecoded_calls g i d be ready]

theorem headerDecoded_clock (ready : s.ptu.mode = .ready) :
    (headerDecoded g (writeTaken (.header g i) d be s)).ptu.clock = s.ptu.clock := by
  rw [headerDecoded_eq g i d be ready, raiseAll_ptu]
  rfl

theorem headerDecoded_lmon (ready : s.ptu.mode = .ready) :
    (headerDecoded g (writeTaken (.header g i) d be s)).lmon = s.lmon := by
  rw [headerDecoded_eq g i d be ready, raiseAll_lmon]
  rfl

theorem groupHeader_inputs (ready : s.ptu.mode = .ready) (port : PortFree s) :
    ∃ t, exec (.groupHeaderWrite g i d be) s = .next t ∧ t.ptu = (writeTaken (.header g i) d be s).ptu ∧ t.rqu = s.rqu
      ∧ SameInputs (modGroup g (fun h => { h with config := headerTaken g i d be s }) s) t := by
  have owns := owns_headerWritten g (writeTaken (.header g i) d be s)
  refine ⟨_, exec_groupHeaderWrite g i d be ready port, owns.fixed.2.1, owns.fixed.2.2, ?_⟩
  have decoded : Moves (modGroup g (fun h => { h with config := headerTaken g i d be s }) (writeTaken (.header g i) d be s))
      (headerDecoded g (writeTaken (.header g i) d be s)) := moves_configFaults _ _ _ _
  exact SameInputs.trans (sameInputs_of_ptu rfl)
    (Moves.sameInputs ((decoded.trans (moves_shedSurplus Config.callRecords g _)).trans (moves_evalFloor g _)))

section FloorOff

variable (ready : s.ptu.mode = .ready) (target : (headerTaken g i d be s).floorTarget = none)
  (off : (s.deng.groups.get g).floorCondition = false)

include ready target off

theorem headerDecoded_floorOff : FloorOff g (headerDecoded g (writeTaken (.header g i) d be s)) := by
  refine ⟨?_, ?_⟩ <;> rw [headerDecoded_groups g i d be ready, if_pos rfl]
  · exact target
  · exact off

/-- Once the surplus is shed, the group still does not ring. -/
theorem headerWritten_of_shed {t : State}
    (h : shedSurplus Config.callRecords g (headerDecoded g (writeTaken (.header g i) d be s)) = t)
    (groups : t.deng.groups = (headerDecoded g (writeTaken (.header g i) d be s)).deng.groups) :
    headerWritten g (writeTaken (.header g i) d be s) = t := by
  have floor := (headerDecoded_floorOff g i d be ready target off).of_groups (t := t) (by rw [groups])
  rw [headerWritten, h, floor.eval]

/-- A queue within the capacity stays. -/
theorem headerWritten_short (short : (queueOf g s).length ≤ (headerTaken g i d be s).capacity) :
    headerWritten g (writeTaken (.header g i) d be s) = shed s.deng.calls [] (headerDecoded g (writeTaken (.header g i) d be s)) := by
  have within : shedSurplus Config.callRecords g (headerDecoded g (writeTaken (.header g i) d be s))
      = headerDecoded g (writeTaken (.header g i) d be s) :=
    shedSurplus_short (by rw [headerDecoded_queueOf g i d be ready, headerDecoded_groups g i d be ready, if_pos rfl]; exact short) _
  rw [headerWritten_of_shed g i d be ready target off within rfl, shed, raiseAll_nil,
    ← headerDecoded_calls g i d be ready]

theorem headerWritten_deflects (refs : referencesSound s) (bare : ∀ q ∈ queueOf g s, q.ringing = [] ∧ q.reservations = [])
    (noTarget : (headerTaken g i d be s).overflowTarget = none) :
    headerWritten g (writeTaken (.header g i) d be s)
      = shed (s.deng.calls.filter (· ∉ ((queueOf g s).drop (headerTaken g i d be s).capacity).reverse))
          (((queueOf g s).drop (headerTaken g i d be s).capacity).reverse.filterMap (deflection g))
          (headerDecoded g (writeTaken (.header g i) d be s)) := by
  have sheds : ShedsByDeflection g (headerDecoded g (writeTaken (.header g i) d be s)) :=
    { off := headerDecoded_floorOff g i d be ready target off
      target := by rw [headerDecoded_groups g i d be ready, if_pos rfl]; exact noTarget
      refs := by
        rw [DistinctRefs, headerDecoded_calls g i d be ready]
        exact (List.nodup_append.mp refs.2).1
      bare := by rw [headerDecoded_queueOf g i d be ready]; exact bare }
  have fuel : (queueOf g s).length ≤ Config.callRecords := by
    rw [queueOf, (byPriority_perm _).length_eq]
    exact (List.length_filter_le _ _).trans refs.1
  have shedding := shedSurplus_deflects Config.callRecords sheds (by
    rw [headerDecoded_queueOf g i d be ready]
    exact fuel.trans (Nat.le_add_left _ _))
  rw [surplusOf, headerDecoded_queueOf g i d be ready, headerDecoded_calls g i d be ready, headerDecoded_groups g i d be ready,
    if_pos rfl] at shedding
  exact headerWritten_of_shed g i d be ready target off shedding (by rw [shed_groups])

/-- The one call beyond the capacity overflows into another group, which queues it. -/
theorem headerWritten_overflows (refs : referencesSound s) {x : GroupNo} {rest : List CallRecord} {q : CallRecord} {k : HuntPart}
    (overflow : (headerTaken g i d be s).overflowTarget = some x) (hx : x ≠ g) (hq : queueOf g s = rest ++ [q])
    (bare : q.ringing = [] ∧ q.reservations = []) (long : rest.length = (headerTaken g i d be s).capacity) (hk : q.hunt = some k)
    (hops : k.hops.val < 4) (floor : FloorOff x s) (room : CanOnlyQueue x s) :
    headerWritten g (writeTaken (.header g i) d be s)
      = shed (replaced q.ref { q with hunt := some (arrived x (Fin.ofNat 5 (k.hops.val + 1)) k s) } s)
          [.overflow g x (k.hops.val + 1) q.ref, .queued x (placeIn q.ref x
            (replaced q.ref { q with hunt := some (arrived x (Fin.ofNat 5 (k.hops.val + 1)) k s) } s)) q.ref]
          (headerDecoded g (writeTaken (.header g i) d be s)) := by
  have hclock := headerDecoded_clock g i d be ready
  have hlmon := headerDecoded_lmon g i d be ready
  have hcalls := headerDecoded_calls g i d be ready
  have hqueue := headerDecoded_queueOf g i d be ready
  have hgroups := headerDecoded_groups g i d be ready
  have off_v := headerDecoded_floorOff g i d be ready target off
  refine headerWritten_of_shed g i d be ready target off ?_ (by rw [shed_groups])
  generalize headerDecoded g (writeTaken (.header g i) d be s) = v at *
  have hgx : v.deng.groups.get x = s.deng.groups.get x := by rw [hgroups, if_neg hx]
  have hgg : (v.deng.groups.get g).config = headerTaken g i d be s := by rw [hgroups, if_pos rfl]
  have hq_v : queueOf g v = rest ++ [q] := by rw [hqueue, hq]
  have distinct : DistinctRefs v := by
    rw [DistinctRefs, hcalls]
    exact (List.nodup_append.mp refs.2).1
  obtain ⟨hmem, hstate, hin⟩ := mem_queueOf.mp (show q ∈ queueOf g v by rw [hq_v]; simp)
  have hkg : k.group = g := (inGroup_iff hk).mp hin
  have room_v : CanOnlyQueue x v :=
    ⟨by rw [hgx]; simpa only [eligibleAt_congr (congrArg (·.members) hgx) hlmon] using room.noOffer,
      by rw [hqueue, hgx]; exact room.room⟩
  have arrival : arrived x (Fin.ofNat 5 (k.hops.val + 1)) k v = arrived x (Fin.ofNat 5 (k.hops.val + 1)) k s := by
    rw [arrived, arrived, hgx, hclock]
  have hrep : ∀ c, replaced q.ref c v = replaced q.ref c s := fun c => by rw [replaced, replaced, hcalls]
  have flown := overflowCall_queues distinct hmem hstate bare.1 bare.2 hk hops (hkg ▸ off_v) (floor.of_groups hgx) room_v
    (by rw [hkg]; exact hx)
  rw [arrival, hrep, hkg] at flown
  have remains := queueOf_departed (c := { q with hunt := some (arrived x (Fin.ofNat 5 (k.hops.val + 1)) k s) }) distinct hq_v
    (by simp [inGroup, arrived, hx])
  rw [hrep] at remains
  have tooLong : ¬ (queueOf g v).length ≤ (v.deng.groups.get g).config.capacity := by
    rw [hq_v, hgg, ← long]
    simp
  have first : shedSurplus Config.callRecords g v = shedSurplus 127 g (overflowCall q.ref k x v) := by
    show shedSurplus (127 + 1) g v = _
    rw [shedSurplus, if_neg tooLong, hq_v, List.getLast?_concat]
    simp only [hk, hgg, overflow]
  rw [first, flown, shedSurplus_short]
  rw [remains, shed_groups, hgg, long]

end FloorOff

end Header

end Sys2Proof.Machine
end

section
namespace Sys2Proof.Machine

/-! ### Arbitration leaves the members alone (R24, R41) -/

/-- The member positions of all groups are the same: their lines, flags, sign-in states and counts. -/
def MembersKept (s t : State) : Prop := ∀ h : GroupNo, (t.deng.groups.get h).members = (s.deng.groups.get h).members

theorem MembersKept.refl (s : State) : MembersKept s s := fun _ => rfl

theorem MembersKept.trans {s t u : State} (h : MembersKept s t) (k : MembersKept t u) : MembersKept s u :=
  fun g => (k g).trans (h g)

theorem MembersKept.of_groups {s t : State} (h : t.deng.groups = s.deng.groups) : MembersKept s t := fun g => by rw [h]

theorem MembersKept.foldl {α : Type} {f : State → α → State} (h : ∀ s x, MembersKept s (f s x)) (xs : List α) (s : State) :
    MembersKept s (xs.foldl f s) := by
  induction xs generalizing s with
  | nil => exact .refl s
  | cons x xs ih => exact (h s x).trans (ih _)

theorem membersKept_modGroup (g : GroupNo) {f : HuntGroup → HuntGroup} (h : ∀ k, (f k).members = k.members) (s : State) :
    MembersKept s (modGroup g f s) := fun x => by
  simp only [modGroup, get_modAt]
  split
  · next e => rw [h, e]
  · rfl

theorem membersKept_evalFloor (g : GroupNo) (s : State) : MembersKept s (evalFloor g s) := by
  have turned : ∀ b, MembersKept s (modGroup g (fun h => { h with floorCondition := b }) s) := fun b =>
    membersKept_modGroup g (by intro _; rfl) s
  have paged : ∀ {t u : State}, PageSteps t u → MembersKept t u := fun h => .of_groups (by rw [h.work.deng])
  unfold evalFloor evalFloorOver
  dsimp only
  split
  · exact .refl s
  · split
    · exact (turned _).trans (paged (pageSteps_startFloorPage g _))
    · exact (turned _).trans (paged (pageSteps_endFloorPage g _))

theorem membersKept_placeOffer (r : CallRef) (g : GroupNo) (s : State) (i : MemberPos) : MembersKept s (placeOffer r g s i) := by
  unfold placeOffer
  dsimp only
  refine MembersKept.trans ?_ (.of_groups (by rw [raiseNotice_ntuAfter]))
  split
  · exact MembersKept.trans (.of_groups rfl) (membersKept_modGroup g (by intro _; rfl) _)
  · exact .of_groups rfl

theorem membersKept_offerCall (r : CallRef) (g : GroupNo) (ps : List MemberPos) (s : State) : MembersKept s (offerCall r g ps s) := by
  have state : MembersKept s (modCall r (fun c => { c with state := if c.ringing = [] then .offered else .ringing }) s) :=
    .of_groups rfl
  unfold offerCall
  dsimp only
  refine MembersKept.trans ?_ (.foldl (membersKept_placeOffer r g) ps _)
  split
  · split
    · exact state.trans (membersKept_evalFloor g _)
    · exact state
  · exact state

theorem membersKept_offerLine (l : LineNo) (c : CallRecord) (s : State) : MembersKept s (offerLine l c s) := by
  unfold offerLine
  split
  · split
    · exact membersKept_offerCall _ _ _ s
    · exact .refl s
  · exact .refl s

theorem membersKept_arbitrate (l : LineNo) (s : State) : MembersKept s (arbitrate l s) := by
  unfold arbitrate
  split
  · exact membersKept_offerLine l _ s
  · split
    · exact membersKept_offerLine l _ s
    · exact .refl s

/-! ### A member word written in service (R23) -/

section MemberWord

variable (g : GroupNo) (i : MemberPos) (d : Word) (be : ByteEnables) {s : State}

theorem exec_memberWordWrite (ready : s.ptu.mode = .ready) (port : PortFree s) :
    exec (.memberWordWrite g i d be) s = .next (memberWritten g i (writeTaken (.member g i) d be s)) :=
  congrArg Host.Outcome.next (access_owner ready port (by simp) (owns_memberWritten g i _))

/-- The group with the fields of a merged member word. -/
def memberTaken (s : State) : HuntGroup :=
  { s.deng.groups.get g with members :=
    (putAt (s.deng.groups.get g).members i (withMemberWord (copyOf (.member g i) (writeTaken (.member g i) d be s))
      ((s.deng.groups.get g).members.get i))) }

/-- The faults of a member word and of the positions that it leaves ignored. -/
def memberNotices (s : State) : List Notice :=
  (memberFaults (copyOf (.member g i) (writeTaken (.member g i) d be s))).map (fun f =>
      Notice.configFault ⟨.member, f, 32 * g.val + i.val⟩)
    ++ (ignoredPositions (memberTaken g i d be s)).map fun j => .configFault ⟨.member, .duplicate, 32 * g.val + j.val⟩

/-- The positions whose effective line a member word changes. -/
def changedPositions (s : State) : List MemberPos :=
  (List.finRange 32).filter fun j => effectiveLine (s.deng.groups.get g) j ≠ effectiveLine (memberTaken g i d be s) j

/-- The state with the word's fields taken and the faults raised, and with some calls and some group in place of the old. -/
def memberRaised (calls : List CallRecord) (k : HuntGroup) (s : State) : State :=
  { raiseAll (memberNotices g i d be s) (writeTaken (.member g i) d be s) with
    deng := { s.deng with calls := calls, groups := (putAt s.deng.groups g k) } }

theorem duplicates_raised {s : State} (ready : s.ptu.mode = .ready) (js : List MemberPos) :
    js.foldl (fun s (j : MemberPos) => configFault .member (32 * g.val + j.val) s .duplicate) s
      = raiseAll (js.map fun j => .configFault ⟨.member, .duplicate, 32 * g.val + j.val⟩) s := by
  induction js generalizing s with
  | nil => rfl
  | cons j js ih =>
    have first : configFault .member (32 * g.val + j.val) s .duplicate
        = raiseNotice (.configFault ⟨.member, .duplicate, 32 * g.val + j.val⟩) s := by
      simp only [configFault, stepFault, ready]
    rw [List.foldl_cons, first]
    exact ih (by rw [raiseNotice_ptu, ready])

theorem memberFaultsRaised_eq (ready : s.ptu.mode = .ready) :
    memberFaultsRaised g i (modMember g i (withMemberWord (copyOf (.member g i) (writeTaken (.member g i) d be s)))
        (writeTaken (.member g i) d be s))
      = memberRaised g i d be s.deng.calls (memberTaken g i d be s) s := by
  have group : (modMember g i (withMemberWord (copyOf (.member g i) (writeTaken (.member g i) d be s)))
      (writeTaken (.member g i) d be s)).deng.groups.get g = memberTaken g i d be s := by
    simp only [modMember, modGroup, get_modAt, if_true]
    rfl
  have ready' : (modMember g i (withMemberWord (copyOf (.member g i) (writeTaken (.member g i) d be s)))
      (writeTaken (.member g i) d be s)).ptu.mode = .ready := ready
  rw [memberFaultsRaised, group, configFaults_ready ready', duplicates_raised g (by rw [raiseAll_ptu, ready']), ← raiseAll_append]
  simp only [memberRaised, raiseAll_ntuAfter, memberNotices]
  rfl

end MemberWord

end Sys2Proof.Machine
end

section
namespace Sys2Proof.Machine

/-! ### A change of effective lines (R23) -/

/-- A group with the counts of some positions cleared. -/
def countsCleared (js : List MemberPos) (k : HuntGroup) : HuntGroup :=
  { k with members := Vector.ofFn fun j => if j ∈ js then { k.members.get j with noAnswers := 0 } else k.members.get j }

theorem countsCleared_nil (k : HuntGroup) : countsCleared [] k = k := by
  have same : (Vector.ofFn fun j => if j ∈ ([] : List MemberPos) then { k.members.get j with noAnswers := 0 } else k.members.get j)
      = k.members := vector_ext_get fun j => by simp
  rw [countsCleared, same]

theorem countsCleared_cons (j : MemberPos) (js : List MemberPos) (k : HuntGroup) :
    countsCleared js { k with members := modAt k.members j fun m => { m with noAnswers := 0 } } = countsCleared (j :: js) k := by
  have members : (Vector.ofFn fun y => if y ∈ js
        then { (modAt k.members j fun m => { m with noAnswers := 0 }).get y with noAnswers := 0 }
        else (modAt k.members j fun m => { m with noAnswers := 0 }).get y)
      = Vector.ofFn fun y => if y ∈ j :: js then { k.members.get y with noAnswers := 0 } else k.members.get y :=
    vector_ext_get fun y => by
      rw [get_ofFn, get_ofFn, get_modAt]
      by_cases e : y = j
      · subst e
        by_cases h : y ∈ js <;> simp [h]
      · by_cases h : y ∈ js <;> simp [e, h]
  rw [countsCleared, members]
  rfl

theorem foldl_clearCount (g : GroupNo) (js : List MemberPos) (s : State) :
    js.foldl (fun s j => modMember g j (fun m => { m with noAnswers := 0 }) s) s = modGroup g (countsCleared js) s := by
  induction js generalizing s with
  | nil =>
    have same : modAt s.deng.groups g (countsCleared []) = s.deng.groups := vector_ext_get fun x => by
      by_cases h : x = g <;> simp [h, countsCleared_nil]
    rw [List.foldl_nil, modGroup, same]
  | cons j js ih =>
    rw [List.foldl_cons, ih]
    simp only [modMember, modGroup, modAt_modAt, countsCleared_cons]

/-- The lines that joined, each arbitrated where it is eligible (R23, R41). -/
def joinedArbitrated (g : GroupNo) (k : HuntGroup) (js : List MemberPos) (s : State) : State :=
  js.foldl (fun t j => if eligibleAt g j t = true then arbitrate (k.members.get j).line t else t) s

theorem membersKept_joinedArbitrated (g : GroupNo) (k : HuntGroup) (js : List MemberPos) (s : State) :
    MembersKept s (joinedArbitrated g k js s) :=
  MembersKept.foldl (fun t j => by
    split
    · exact membersKept_arbitrate _ t
    · exact .refl t) js s

theorem isEffective_congr {h k : HuntGroup} (e : h.members = k.members) (j : MemberPos) : isEffective h j = isEffective k j := by
  rw [isEffective, isEffective, e]

/-- Going by the lines that joined is going by the positions changed: a position that is not effective gives no line and is not
eligible. -/
theorem foldl_joined {g : GroupNo} {k : HuntGroup} (js : List MemberPos) {s : State}
    (h : (s.deng.groups.get g).members = k.members) :
    (js.filterMap (effectiveLine k)).foldl (fun s l => if eligible g l s then arbitrate l s else s) s = joinedArbitrated g k js s := by
  induction js generalizing s with
  | nil => rfl
  | cons j js ih =>
    have effective := isEffective_congr h j
    cases hj : isEffective k j with
    | false =>
      have none : effectiveLine k j = none := by simp [effectiveLine, hj]
      have out : eligibleAt g j s = false := by simp [eligibleAt, effective, hj]
      rw [List.filterMap_cons, none, joinedArbitrated, List.foldl_cons, out]
      exact ih h
    | true =>
      have line : effectiveLine k j = some (k.members.get j).line := by simp [effectiveLine, hj]
      have pos : posOf (s.deng.groups.get g) (k.members.get j).line = some j :=
        posOf_eq_some.mpr ⟨effective.trans hj, by rw [h]⟩
      have same : eligible g (k.members.get j).line s = eligibleAt g j s := by rw [eligible, pos]
      rw [List.filterMap_cons, line, joinedArbitrated, List.foldl_cons, List.foldl_cons, same]
      refine ih ?_
      split
      · exact (membersKept_arbitrate _ s g).trans h
      · exact h

section MemberWord

variable (g : GroupNo) (i : MemberPos) (d : Word) (be : ByteEnables) {s : State}

/-- The calls of a group with their tried sets cleared, when effective lines change. -/
def triedCleared (s : State) : List CallRecord :=
  if changedPositions g i d be s = [] then s.deng.calls else s.deng.calls.map (clearTried g)

theorem memberWritten_eq (ready : s.ptu.mode = .ready) :
    memberWritten g i (writeTaken (.member g i) d be s)
      = joinedArbitrated g (countsCleared (changedPositions g i d be s) (memberTaken g i d be s)) (changedPositions g i d be s)
          (memberRaised g i d be (triedCleared g i d be s)
            (countsCleared (changedPositions g i d be s) (memberTaken g i d be s)) s) := by
  have raised := memberFaultsRaised_eq g i d be ready
  have group : ∀ calls k, (memberRaised g i d be calls k s).deng.groups.get g = k := fun calls k => by simp [memberRaised]
  have ready' : ∀ calls k, (memberRaised g i d be calls k s).ptu.mode = .ready := fun calls k => by
    rw [memberRaised, raiseAll_ptu]
    exact ready
  have changed : memberWritten g i (writeTaken (.member g i) d be s)
      = if changedPositions g i d be s = [] then memberRaised g i d be s.deng.calls (memberTaken g i d be s) s
        else membersChanged g (changedPositions g i d be s) (memberRaised g i d be s.deng.calls (memberTaken g i d be s) s) := by
    simp only [memberWritten, raised, group]
    rfl
  rw [changed, triedCleared]
  by_cases none : changedPositions g i d be s = []
  · rw [if_pos none, if_pos none, none, countsCleared_nil]
    rfl
  · have cleared : modGroup g (countsCleared (changedPositions g i d be s))
        (memberRaised g i d be (s.deng.calls.map (clearTried g)) (memberTaken g i d be s) s)
        = memberRaised g i d be (s.deng.calls.map (clearTried g))
            (countsCleared (changedPositions g i d be s) (memberTaken g i d be s)) s := by
      simp [modGroup, memberRaised, modAt_eq_putAt, putAt_putAt]
    rw [if_neg none, if_neg none, membersChanged]
    have calls : { memberRaised g i d be s.deng.calls (memberTaken g i d be s) s with deng :=
        { (memberRaised g i d be s.deng.calls (memberTaken g i d be s) s).deng with
          calls := (memberRaised g i d be s.deng.calls (memberTaken g i d be s) s).deng.calls.map (clearTried g) } }
        = memberRaised g i d be (s.deng.calls.map (clearTried g)) (memberTaken g i d be s) s := rfl
    simp only [ready', if_true, calls, foldl_clearCount, cleared, group]
    exact foldl_joined _ (by rw [group])

end MemberWord

end Sys2Proof.Machine
end

section
namespace Sys2Proof.Machine

theorem effectiveLine_eq (h : HuntGroup) : effectiveLine h = memberAt h := funext (effectiveLine_eq_memberAt h)

theorem ignoredPositions_eq (h : HuntGroup) :
    ignoredPositions h = (List.finRange 32).filter fun j => (h.members.get j).valid = true ∧ memberAt h j = none := by
  refine List.filter_congr fun j _ => ?_
  rw [← effectiveLine_eq_memberAt, effectiveLine]
  cases (h.members.get j).valid <;> cases isEffective h j <;> rfl

theorem clearTried_eq (g : GroupNo) (c : CallRecord) :
    clearTried g c = { c with hunt := c.hunt.map fun h => if h.group = g then { h with tried := [] } else h } := by
  obtain ⟨ref, state, ringing, reservations, hunt⟩ := c
  cases hunt with
  | none => rfl
  | some h => by_cases e : h.group = g <;> simp [clearTried, inGroup, e]

theorem countsCleared_signedIn (js : List MemberPos) (k : HuntGroup) (j : MemberPos) :
    ((countsCleared js k).members.get j).signedIn = (k.members.get j).signedIn := by
  have cleared : (countsCleared js k).members.get j = if j ∈ js then { k.members.get j with noAnswers := 0 } else k.members.get j :=
    get_ofFn _ j
  rw [cleared]
  split <;> rfl

section MemberWord

variable (g : GroupNo) (i : MemberPos) (d : Word) (be : ByteEnables) {s : State}

theorem memberTaken_signedIn (s : State) (j : MemberPos) :
    ((memberTaken g i d be s).members.get j).signedIn = ((s.deng.groups.get g).members.get j).signedIn := by
  have taken : (memberTaken g i d be s).members.get j
      = if j = i then withMemberWord (copyOf (.member g i) (writeTaken (.member g i) d be s)) ((s.deng.groups.get g).members.get i)
        else (s.deng.groups.get g).members.get j := get_putAt _ i j _
  rw [taken]
  split
  · next e => rw [e, withMemberWord]
  · rfl

/-- A member word leaves every sign-in state (R24). -/
theorem memberWritten_signedIn (ready : s.ptu.mode = .ready) (h : GroupNo) (j : MemberPos) :
    (((memberWritten g i (writeTaken (.member g i) d be s)).deng.groups.get h).members.get j).signedIn
      = ((s.deng.groups.get h).members.get j).signedIn := by
  rw [memberWritten_eq g i d be ready, membersKept_joinedArbitrated g _ _ _ h, memberRaised]
  show (((putAt s.deng.groups g _).get h).members.get j).signedIn = _
  rw [get_putAt]
  split
  · next e => rw [countsCleared_signedIn, memberTaken_signedIn, e]
  · rfl

theorem memberWord_inputs (ready : s.ptu.mode = .ready) (port : PortFree s) :
    ∃ t, exec (.memberWordWrite g i d be) s = .next t ∧ t.ptu = (writeTaken (.member g i) d be s).ptu ∧ t.rqu = s.rqu
      ∧ SameInputs (modMember g i (withMemberWord (copyOf (.member g i) (writeTaken (.member g i) d be s))) s) t
      ∧ ∀ (h : GroupNo) (j : MemberPos), ((t.deng.groups.get h).members.get j).signedIn
          = ((s.deng.groups.get h).members.get j).signedIn := by
  have owns := owns_memberWritten g i (writeTaken (.member g i) d be s)
  refine ⟨_, exec_memberWordWrite g i d be ready port, owns.fixed.2.1, owns.fixed.2.2, ?_,
    memberWritten_signedIn g i d be ready⟩
  have faults := moves_memberFaultsRaised g i
    (modMember g i (withMemberWord (copyOf (.member g i) (writeTaken (.member g i) d be s))) (writeTaken (.member g i) d be s))
  have moves : Moves (modMember g i (withMemberWord (copyOf (.member g i) (writeTaken (.member g i) d be s)))
      (writeTaken (.member g i) d be s)) (memberWritten g i (writeTaken (.member g i) d be s)) := by
    unfold memberWritten
    exact Seq.ite (fun _ => faults) fun _ => faults.trans (moves_membersChanged _ _ _)
  exact SameInputs.trans (sameInputs_of_ptu rfl) moves.sameInputs

end MemberWord

end Sys2Proof.Machine
end

section
namespace Sys2Proof.Machine

/-! ### Gains brought up to date (R133, R135 to R138, R140) -/

theorem putAt_self {α : Type} {n : Nat} (v : Vector α n) (i : Fin n) : putAt v i (v.get i) = v :=
  vector_ext_get fun j => by
    by_cases h : j = i <;> simp [h]

/-- An output stage under a holder, with the target gain computed again. -/
def regained (h : Option Holder) (a : AmonZone) (now : Nat) (x : ZosZone) : ZosZone :=
  { x with
    gt := targetGain h a x.gain
    ga := if emergencyHeld h then targetGain h a x.gain else x.ga
    rampAt := rampTimer (targetGain h a x.gain) (if emergencyHeld h then targetGain h a x.gain else x.ga) x.rampAt
      (now + x.gain.ramp) }

theorem regain_eq (z : ZoneNo) (s : State) :
    regain z s = modZos z (regained (s.pctl.holders.get z) (s.amon.get z) s.ptu.clock) s := rfl

/-- An output stage that takes new gain fields. -/
def gainTaken (h : Option Holder) (a : AmonZone) (now : Nat) (g : GainFields) (x : ZosZone) : ZosZone :=
  regained h a now { x with gain := g, ga := min x.ga g.gmax }

theorem targetGain_eq (h : Option Holder) (a : AmonZone) (g : GainFields) : targetGain h a g = soughtGain h a g := by
  cases h with
  | none => rfl
  | some h =>
    have above : ((noiseLevel a - a.fields.quiet : Nat) : Int) = max 0 ((a.ne / 16 : Nat) - (a.fields.quiet : Int)) := by
      rw [noiseLevel]
      omega
    have base : (baseGain h.priority a g : Int) = if a.fields.mic = false ∨ a.window = .micSilent then (g.gdef : Int)
        else if h.priority = .background then g.gb
        else g.gb + (max 0 ((a.ne / 16 : Nat) - (a.fields.quiet : Int)) * g.slope) / 8 := by
      rw [← above, baseGain]
      split
      · rfl
      · split
        · rfl
        · push_cast
          rfl
    simp only [targetGain, soughtGain, clampInt, base]

theorem targetGain_emergency {h : Option Holder} (held : emergencyHeld h = true) (a : AmonZone) (g : GainFields) :
    targetGain h a g = g.gmax := by
  cases h with
  | none => simp [emergencyHeld] at held
  | some h =>
    simp only [emergencyHeld, Bool.and_eq_true, decide_eq_true_eq, Bool.not_eq_true'] at held
    simp [targetGain, held.1, held.2]

section Taken

variable (h : Option Holder) (a : AmonZone) (now : Nat) (g : GainFields) (x : ZosZone)

@[simp] theorem gainTaken_gain : (gainTaken h a now g x).gain = g := rfl

@[simp] theorem gainTaken_fifo : (gainTaken h a now g x).fifo = x.fifo := rfl

theorem gainTaken_gt : (gainTaken h a now g x).gt = soughtGain h a g := targetGain_eq h a g

theorem gainTaken_ga :
    (gainTaken h a now g x).ga = if emergencyHeld h = true then g.gmax else min x.ga g.gmax := by
  simp only [gainTaken, regained]
  split
  · next held => exact targetGain_emergency held a g
  · rfl

theorem gainTaken_rampAt_none : (gainTaken h a now g x).rampAt = none ↔ (gainTaken h a now g x).ga = (gainTaken h a now g x).gt := by
  show rampTimer (gainTaken h a now g x).gt (gainTaken h a now g x).ga x.rampAt (now + g.ramp) = none ↔ _
  unfold rampTimer
  split
  · next e => simp [e]
  · next ne =>
    split <;> simp [ne]

end Taken

theorem gainTaken_rampAt (h : Option Holder) (a : AmonZone) (g : GainFields) (x : ZosZone) (s : State) :
    (gainTaken h a s.ptu.clock g x).rampAt
      = rampTo (gainTaken h a s.ptu.clock g x).gt (gainTaken h a s.ptu.clock g x).ga { x with gain := g } s := by
  show rampTimer (gainTaken h a s.ptu.clock g x).gt (gainTaken h a s.ptu.clock g x).ga x.rampAt (s.ptu.clock + g.ramp) = _
  unfold rampTimer rampTo
  split
  · rfl
  · cases x.rampAt <;> rfl

end Sys2Proof.Machine
end

section
namespace Sys2Proof.Machine

/-! ### AMON's and ZOS's parts of a zone record write where no page reacts (R121, R122, R126 to R133) -/

/-- A measurement context with the fields of a zone record written to it, but for the window state (R118, R122). -/
def fieldsTaken (k : AmonFields) (a : AmonZone) : AmonZone :=
  { a with
    fields := k, dc := if k.adapt = 0 then 0 else a.dc
    silence := if k.mic = false ∨ k.silTime = 0 then 0 else a.silence }

/-- A measurement context after a zone record write (R118, R122, R126 to R128). -/
def noiseTaken (k : AmonFields) (a : AmonZone) : AmonZone := { fieldsTaken k a with window := windowAtWrite k a.window }

theorem windowAtWrite_eq (k : AmonFields) (w : WindowState) :
    windowAtWrite k w = if k.mic = false ∨ (w = .loud ∧ k.high ≤ k.low) ∨ (w = .micSilent ∧ k.silTime = 0) then .normal else w := by
  unfold windowAtWrite
  by_cases mic : k.mic = false
  · rw [if_pos mic, if_pos (.inl mic)]
  · by_cases loud : w = .loud ∧ k.high ≤ k.low
    · rw [if_neg mic, if_pos loud, if_pos (.inr (.inl loud))]
    · by_cases silent : w = .micSilent ∧ k.silTime = 0
      · rw [if_neg mic, if_neg loud, if_pos silent, if_pos (.inr (.inr silent))]
      · rw [if_neg mic, if_neg loud, if_neg silent, if_neg fun h => h.elim mic fun h => h.elim loud silent]

/-- NOISE_STATE of a changed window state. -/
def windowChange (z : ZoneNo) (k : AmonFields) (a : AmonZone) : List Notice :=
  if (noiseTaken k a).window = a.window then [] else [.noiseState z a.window (noiseTaken k a).window (a.ne / 16) none]

/-- The output stage once AMON has handed on the window state. -/
def stageHeard (h : Option Holder) (k : AmonFields) (a : AmonZone) (now : Nat) (x : ZosZone) : ZosZone :=
  if (noiseTaken k a).window = a.window then x else regained h (noiseTaken k a) now x

/-- No page is concerned, so no wanted set is computed again. -/
theorem refreshWanted_eq {why : ZoneLostReason} {f : PageRec → Bool} {s : State}
    (h : ∀ p r, s.pctl.pages.get p = some r → f r = false) : refreshWanted why f s = s := by
  unfold refreshWanted
  rw [List.filter_eq_nil_iff.mpr]
  · rfl
  · intro p _
    split
    · next r hr => simp [h p r hr]
    · simp

/-- No page reacts to a zone that enters or leaves LOUD: none is BACKGROUND. -/
theorem loudChanged_eq {s : State} (h : ∀ p r, s.pctl.pages.get p = some r → r.priority ≠ .background) : loudChanged s = s :=
  refreshWanted_eq fun p r hr => by simpa using h p r hr

/-- A window state that changes where no page reacts. -/
theorem setWindow_eq {z : ZoneNo} {w : WindowState} {s : State} (ne : w ≠ (s.amon.get z).window)
    (quiet : (w = .loud ↔ (s.amon.get z).window = .loud) ∨ ∀ p r, s.pctl.pages.get p = some r → r.priority ≠ .background) :
    setWindow z w none s = { s with
      amon := modAt s.amon z fun a => { a with window := w }
      zos := { s.zos with zones := (modAt s.zos.zones z
        (regained (s.pctl.holders.get z) { s.amon.get z with window := w } s.ptu.clock)) }
      ntu := ntuAfter [.noiseState z (s.amon.get z).window w ((s.amon.get z).ne / 16) none] s.ptu s.ntu } := by
  have heard : regain z (raiseNotice (.noiseState z (s.amon.get z).window w (noiseLevel (s.amon.get z)) none)
        (modAmon z (fun a => { a with window := w }) s)) = { s with
      amon := modAt s.amon z fun a => { a with window := w }
      zos := { s.zos with zones := (modAt s.zos.zones z
        (regained (s.pctl.holders.get z) { s.amon.get z with window := w } s.ptu.clock)) }
      ntu := ntuAfter [.noiseState z (s.amon.get z).window w ((s.amon.get z).ne / 16) none] s.ptu s.ntu } := by
    simp only [regain_eq, raiseNotice_ntuAfter, modAmon, modZos, get_modAt, if_true]
    rfl
  rw [setWindow, if_neg ne]
  simp only [heard]
  split
  · rfl
  · next changed =>
    obtain same | none := quiet
    · exact absurd (propext same) changed
    · exact loudChanged_eq none

theorem amonWritten_eq {z : ZoneNo} {k : AmonFields} {fs : List FaultField} {s : State} (ready : s.ptu.mode = .ready)
    (quiet : ((noiseTaken k (s.amon.get z)).window = .loud ↔ (s.amon.get z).window = .loud)
      ∨ ∀ p r, s.pctl.pages.get p = some r → r.priority ≠ .background) :
    amonWritten z k fs s = { s with
      amon := putAt s.amon z (noiseTaken k (s.amon.get z))
      zos := { s.zos with zones := (putAt s.zos.zones z
        (stageHeard (s.pctl.holders.get z) k (s.amon.get z) s.ptu.clock (s.zos.zones.get z))) }
      ntu := ntuAfter (fs.map (fun f => .configFault ⟨.zone, f, z.val⟩) ++ windowChange z k (s.amon.get z)) s.ptu s.ntu } := by
  have fields : configFaults .zone z.val fs (modAmon z (fieldsTaken k) s) = { s with
      amon := modAt s.amon z (fieldsTaken k)
      ntu := ntuAfter (fs.map fun f => .configFault ⟨.zone, f, z.val⟩) s.ptu s.ntu } := by
    rw [configFaults_ready (s := modAmon z (fieldsTaken k) s) ready, raiseAll_ntuAfter]
    rfl
  have written : amonWritten z k fs s
      = setWindow z (noiseTaken k (s.amon.get z)).window none (configFaults .zone z.val fs (modAmon z (fieldsTaken k) s)) := rfl
  rw [written, fields]
  generalize ntu : ntuAfter (fs.map fun f => .configFault ⟨.zone, f, z.val⟩) s.ptu s.ntu = n
  have before : ({ s with amon := modAt s.amon z (fieldsTaken k), ntu := n } : State).amon.get z = fieldsTaken k (s.amon.get z) := by
    simp
  by_cases same : (noiseTaken k (s.amon.get z)).window = (s.amon.get z).window
  · have record : fieldsTaken k (s.amon.get z) = noiseTaken k (s.amon.get z) := by
      rw [noiseTaken, show windowAtWrite k (s.amon.get z).window = (s.amon.get z).window from same]
      rfl
    rw [setWindow, if_pos (by rw [before]; exact same), windowChange, if_pos same, stageHeard, if_pos same, List.append_nil,
      putAt_self, modAt_eq_putAt, record, ntu]
  · rw [setWindow_eq (by rw [before]; exact same) (by rw [before]; exact quiet), before, windowChange, if_neg same, stageHeard,
      if_neg same, ← ntuAfter_ntuAfter, ntu]
    simp only [modAt_eq_putAt, putAt_putAt, get_putAt, if_true]
    rfl

/-! ### ZOS's part, and PCTL's -/

theorem takeGain_eq (z : ZoneNo) (g : GainFields) (s : State) :
    takeGain z g s = modZos z (gainTaken (s.pctl.holders.get z) (s.amon.get z) s.ptu.clock g) s := by
  simp only [takeGain, regain_eq, modZos, modAt_modAt]
  rfl

/-- A zone being let go is left with a gain above 0, so that no report follows (R141). -/
theorem zosWritten_eq {z : ZoneNo} {g : GainFields} {fs : List FaultField} {s : State} (ready : s.ptu.mode = .ready)
    (audible : ∀ h, s.pctl.holders.get z = some h → h.lettingGo = true → min (s.zos.zones.get z).ga g.gmax ≠ 0) :
    zosWritten z g fs s = { s with
      zos := { s.zos with zones := (putAt s.zos.zones z
        (gainTaken (s.pctl.holders.get z) (s.amon.get z) s.ptu.clock g (s.zos.zones.get z))) }
      ntu := ntuAfter (fs.map fun f => .configFault ⟨.zone, f, z.val⟩) s.ptu s.ntu } := by
  have taken : takeGain z g (configFaults .zone z.val fs s) = { s with
      zos := { s.zos with zones := (putAt s.zos.zones z
        (gainTaken (s.pctl.holders.get z) (s.amon.get z) s.ptu.clock g (s.zos.zones.get z))) }
      ntu := ntuAfter (fs.map fun f => .configFault ⟨.zone, f, z.val⟩) s.ptu s.ntu } := by
    rw [configFaults_ready ready, raiseAll_ntuAfter, takeGain_eq]
    rfl
  have silent : ∀ t : State, t.pctl = s.pctl →
      (t.zos.zones.get z).ga = (gainTaken (s.pctl.holders.get z) (s.amon.get z) s.ptu.clock g (s.zos.zones.get z)).ga →
      pageTask (.zero z) t = (t, []) := fun t hp hz => by
    rw [pageTask, zeroReport, hp]
    cases hh : s.pctl.holders.get z with
    | none => rfl
    | some h =>
      refine if_neg fun both => audible h hh both.1 ?_
      have held : emergencyHeld (some h) = false := by simp [emergencyHeld, both.1]
      rw [hz, gainTaken_ga, hh, held] at both
      exact both.2
  rw [zosWritten, taken]
  have idle := silent { s with
      zos := { s.zos with zones := (putAt s.zos.zones z
        (gainTaken (s.pctl.holders.get z) (s.amon.get z) s.ptu.clock g (s.zos.zones.get z))) }
      ntu := ntuAfter (fs.map fun f => .configFault ⟨.zone, f, z.val⟩) s.ptu s.ntu } rfl (by simp)
  exact (settle_one (by rw [idle])).trans (by rw [idle])

/-- The zones' enables after a write of a zone record: its first word holds the flag (R76). -/
def enablesTaken (z : ZoneNo) (i : Fin 8) (b : Bool) (p : Pctl) : Pctl :=
  { p with enabled := if i = 0 then putAt p.enabled z b else p.enabled }

/-- A flag written as it was, or where there is no page and no holder, is all that changes. -/
theorem setZoneEnable_eq {z : ZoneNo} {b : Bool} {s : State}
    (h : s.pctl.enabled.get z = b ∨ s.pctl.pageOrder = [] ∧ s.pctl.holders.get z = none) :
    setZoneEnable z b s = { s with pctl := { s.pctl with enabled := putAt s.pctl.enabled z b } } := by
  by_cases same : s.pctl.enabled.get z = b
  · rw [setZoneEnable, if_pos same, ← same, putAt_self]
  · obtain h | ⟨order, holder⟩ := h
    · exact absurd h same
    · have idle : disableHeld z { s with pctl := { s.pctl with enabled := putAt s.pctl.enabled z b } }
          = ({ s with pctl := { s.pctl with enabled := putAt s.pctl.enabled z b } }, []) := by
        simp only [disableHeld, holder]
      rw [setZoneEnable, if_neg same]
      simp only [idle, ite_self]
      rw [order]
      rfl

end Sys2Proof.Machine
end

section
namespace Sys2Proof.Machine

/-! ### A zone record written in service (R76, R121, R132) -/

theorem noiseTaken_eq (k : AmonFields) (a : AmonZone) :
    noiseTaken k a = { a with
      fields := k, dc := if k.adapt = 0 then 0 else a.dc
      silence := if k.mic = false ∨ k.silTime = 0 then 0 else a.silence
      window := if k.mic = false ∨ (a.window = .loud ∧ k.high ≤ k.low) ∨ (a.window = .micSilent ∧ k.silTime = 0) then .normal
        else a.window } := by
  rw [noiseTaken, windowAtWrite_eq]
  rfl

section StageHeard

variable (h : Option Holder) (k : AmonFields) (a : AmonZone) (now : Nat) (x : ZosZone)

theorem stageHeard_fifo : (stageHeard h k a now x).fifo = x.fifo := by
  unfold stageHeard
  split <;> rfl

variable {h}

theorem stageHeard_ga (held : ¬ emergencyHeld h = true) : (stageHeard h k a now x).ga = x.ga := by
  unfold stageHeard
  split
  · rfl
  · exact if_neg held

variable (h)

/-- GA after the write: GMAX under an EMERGENCY page, else limited to GMAX (R137, R140). -/
theorem gainTaken_stageHeard_ga (g : GainFields) :
    (gainTaken h (noiseTaken k a) now g (stageHeard h k a now x)).ga = if emergencyHeld h = true then g.gmax else min x.ga g.gmax := by
  rw [gainTaken_ga]
  split
  · rfl
  · next held => rw [stageHeard_ga k a now x held]

end StageHeard

section ZoneWord

variable (z : ZoneNo) (i : Fin 8) (d : Word) (be : ByteEnables) {s : State}

theorem exec_zoneRecordWrite (ready : s.ptu.mode = .ready) (port : PortFree s) :
    exec (.zoneRecordWrite z i d be) s = .next (zoneRecordWritten z i (writeTaken (.zone z i) d be s)) :=
  congrArg Host.Outcome.next (access_owner ready port (by simp) (owns_zoneRecordWritten z i _))

/-- The merged words of the record. -/
def zoneWord (s : State) (n : Fin 8) : Word := copyOf (.zone z n) (writeTaken (.zone z i) d be s)

/-- AMON's fields of the merged record. -/
def noiseFields (s : State) : AmonFields := decodeAmon (zoneWord z i d be s 0) (zoneWord z i d be s 2) (zoneWord z i d be s 3)

/-- ZOS's fields of the merged record. -/
def gainFields (s : State) : GainFields := decodeGain (zoneWord z i d be s 0) (zoneWord z i d be s 1)

/-- AMON's faults of the merged record. -/
def noiseFaults (s : State) : List Notice :=
  (amonFaults (zoneWord z i d be s 2) (zoneWord z i d be s 3)).map fun f => .configFault ⟨.zone, f, z.val⟩

/-- ZOS's faults of the merged record. -/
def gainNotices (s : State) : List Notice :=
  (gainFaults (zoneWord z i d be s 0) (zoneWord z i d be s 1)).map fun f => .configFault ⟨.zone, f, z.val⟩

/-- PCTL's part of the write. -/
def enableWritten (s : State) : State :=
  if i = 0 then setZoneEnable z (bit (zoneWord z i d be s 0) 0) (writeTaken (.zone z i) d be s) else writeTaken (.zone z i) d be s

theorem zoneRecordWritten_parts (s : State) :
    zoneRecordWritten z i (writeTaken (.zone z i) d be s)
      = zosWritten z (gainFields z i d be s) (gainFaults (zoneWord z i d be s 0) (zoneWord z i d be s 1))
          (amonWritten z (noiseFields z i d be s) (amonFaults (zoneWord z i d be s 2) (zoneWord z i d be s 3))
            (enableWritten z i d be s)) := rfl

theorem enableWritten_eq
    (h : enablesTaken z i (bit (zoneWord z i d be s 0) 0) s.pctl = s.pctl ∨ s.pctl.pageOrder = [] ∧ s.pctl.holders.get z = none) :
    enableWritten z i d be s = { writeTaken (.zone z i) d be s with
      pctl := enablesTaken z i (bit (zoneWord z i d be s 0) 0) s.pctl } := by
  unfold enableWritten
  by_cases first : i = 0
  · have flag : s.pctl.enabled.get z = bit (zoneWord z i d be s 0) 0 ∨ s.pctl.pageOrder = [] ∧ s.pctl.holders.get z = none := by
      refine h.imp_left fun same => ?_
      have enabled := congrArg (fun p : Pctl => p.enabled.get z) same
      simpa [enablesTaken, first] using enabled.symm
    rw [if_pos first, setZoneEnable_eq (s := writeTaken (.zone z i) d be s) flag]
    simp only [enablesTaken, if_pos first]
    rfl
  · rw [if_neg first, enablesTaken, if_neg first]
    rfl

/-- The output stage that a zone record write gives where no page reacts. -/
def stageWritten (s : State) : ZosZone :=
  gainTaken (s.pctl.holders.get z) (noiseTaken (noiseFields z i d be s) (s.amon.get z)) s.ptu.clock (gainFields z i d be s)
    (stageHeard (s.pctl.holders.get z) (noiseFields z i d be s) (s.amon.get z) s.ptu.clock (s.zos.zones.get z))

theorem zoneRecordWritten_eq (ready : s.ptu.mode = .ready)
    (enable : enablesTaken z i (bit (zoneWord z i d be s 0) 0) s.pctl = s.pctl ∨ s.pctl.pageOrder = [] ∧ s.pctl.holders.get z = none)
    (quiet : ((noiseTaken (noiseFields z i d be s) (s.amon.get z)).window = .loud ↔ (s.amon.get z).window = .loud)
      ∨ ∀ p r, s.pctl.pages.get p = some r → r.priority ≠ .background)
    (audible : ∀ h, s.pctl.holders.get z = some h → h.lettingGo = true →
      min (s.zos.zones.get z).ga (gainFields z i d be s).gmax ≠ 0) :
    zoneRecordWritten z i (writeTaken (.zone z i) d be s)
      = { raiseAll (noiseFaults z i d be s ++ windowChange z (noiseFields z i d be s) (s.amon.get z) ++ gainNotices z i d be s)
            (writeTaken (.zone z i) d be s) with
          pctl := enablesTaken z i (bit (zoneWord z i d be s 0) 0) s.pctl
          amon := putAt s.amon z (noiseTaken (noiseFields z i d be s) (s.amon.get z))
          zos := { s.zos with zones := (putAt s.zos.zones z (stageWritten z i d be s)) } } := by
  have audible' : ∀ h, s.pctl.holders.get z = some h → h.lettingGo = true →
      min (stageHeard (s.pctl.holders.get z) (noiseFields z i d be s) (s.amon.get z) s.ptu.clock (s.zos.zones.get z)).ga
        (gainFields z i d be s).gmax ≠ 0 := fun h hh go => by
    have held : ¬ emergencyHeld (s.pctl.holders.get z) = true := by simp [hh, emergencyHeld, go]
    rw [stageHeard_ga _ _ _ _ held]
    exact audible h hh go
  rw [zoneRecordWritten_parts, enableWritten_eq z i d be enable, amonWritten_eq (by exact ready) (by exact quiet),
    zosWritten_eq (by exact ready) (by simp only [get_putAt, if_true]; exact audible')]
  simp only [raiseAll_ntuAfter, ntuAfter_ntuAfter, get_putAt, if_true, putAt_putAt]
  rfl

end ZoneWord

end Sys2Proof.Machine
end

section
namespace Sys2Proof.Machine

/-! ### What every zone record write does, whatever its pages do -/

/-- Some notices were raised, whose CONFIG_FAULTs are those given. -/
def FaultsRaised (fs : List Notice) (s t : State) : Prop :=
  t.ptu = s.ptu ∧ ∃ ns, t.ntu = ntuAfter ns s.ptu s.ntu ∧ ns.filter isFault = fs

theorem FaultsRaised.trans {fs gs : List Notice} {s t u : State} (h : FaultsRaised fs s t) (k : FaultsRaised gs t u) :
    FaultsRaised (fs ++ gs) s u := by
  obtain ⟨hp, ms, hm, rfl⟩ := h
  obtain ⟨kp, ns, hn, rfl⟩ := k
  exact ⟨kp.trans hp, ms ++ ns, by rw [hn, hm, hp, ntuAfter_ntuAfter], List.filter_append ..⟩

theorem FaultsRaised.of_ntu {s t : State} (hp : t.ptu = s.ptu) (hn : t.ntu = s.ntu) : FaultsRaised [] s t :=
  ⟨hp, [], by rw [hn, ntuAfter_nil], rfl⟩

theorem PageWork.faultsRaised {s t : State} (h : PageWork s t) : FaultsRaised [] s t := by
  obtain ⟨ns, hq, hn⟩ := h.notices
  exact ⟨h.ptu, ns, hn, List.filter_eq_nil_iff.mpr fun n hm => by simp [hq n hm]⟩

theorem faultsRaised_configFaults {s : State} (ready : s.ptu.mode = .ready) (region : FaultRegion) (index : Nat)
    (fs : List FaultField) :
    FaultsRaised (fs.map fun f => .configFault ⟨region, f, index⟩) s (configFaults region index fs s) := by
  rw [configFaults_ready ready, raiseAll_ntuAfter]
  exact ⟨rfl, _, rfl, List.filter_eq_self.mpr fun n hn => by
    obtain ⟨f, -, rfl⟩ := List.mem_map.mp hn
    rfl⟩

/-- Two measurement contexts agree in what the fields, the blocks and the window state give them. -/
structure SameNoise (a b : AmonZone) : Prop where
  dc : b.dc = a.dc
  ne : b.ne = a.ne
  silence : b.silence = a.silence
  window : b.window = a.window

theorem SameNoise.trans {a b c : AmonZone} (h : SameNoise a b) (k : SameNoise b c) : SameNoise a c :=
  ⟨k.dc.trans h.dc, k.ne.trans h.ne, k.silence.trans h.silence, k.window.trans h.window⟩

theorem PageWork.sameNoise {s t : State} (h : PageWork s t) (z : ZoneNo) : SameNoise (s.amon.get z) (t.amon.get z) := by
  rw [h.noise z]
  exact ⟨rfl, rfl, rfl, rfl⟩

theorem SameNoise.noiseTaken {a b : AmonZone} (h : SameNoise a b) (k : AmonFields) :
    SameNoise (noiseTaken k a) (noiseTaken k b) := by
  refine ⟨?_, h.ne, ?_, ?_⟩
  · show (if k.adapt = 0 then 0 else b.dc) = if k.adapt = 0 then 0 else a.dc
    rw [h.dc]
  · show (if k.mic = false ∨ k.silTime = 0 then 0 else b.silence) = if k.mic = false ∨ k.silTime = 0 then 0 else a.silence
    rw [h.silence]
  · show windowAtWrite k b.window = windowAtWrite k a.window
    rw [h.window]

/-- Setting a window state: the state itself, and no CONFIG_FAULT. -/
theorem setWindow_work (z : ZoneNo) (w : WindowState) (level : Option Nat) (s : State) :
    SameNoise { s.amon.get z with window := w } ((setWindow z w level s).amon.get z) ∧ FaultsRaised [] s (setWindow z w level s) := by
  by_cases same : w = (s.amon.get z).window
  · rw [setWindow, if_pos same]
    exact ⟨⟨rfl, rfl, rfl, same.symm⟩, .of_ntu rfl rfl⟩
  · have steps : PageSteps (modAmon z (fun a => { a with window := w }) s) (setWindow z w level s) := by
      have heard : PageSteps (modAmon z (fun a => { a with window := w }) s)
          (regain z (raiseNotice (.noiseState z (s.amon.get z).window w (noiseLevel (s.amon.get z)) level)
            (modAmon z (fun a => { a with window := w }) s))) :=
        (Seq.one (.notice _ _ rfl)).trans (pageSteps_regain z _)
      rw [setWindow, if_neg same]
      exact Seq.ite (fun _ => heard) fun _ => heard.trans (pageSteps_refreshWanted _ _ _)
    have noise := steps.work.sameNoise z
    simp only [modAmon, get_modAt, if_true] at noise
    have own : FaultsRaised [] s (modAmon z (fun a => { a with window := w }) s) := .of_ntu rfl rfl
    exact ⟨noise, own.trans steps.work.faultsRaised⟩

theorem amonWritten_work {z : ZoneNo} {k : AmonFields} {fs : List FaultField} {s : State} (ready : s.ptu.mode = .ready) :
    SameNoise (noiseTaken k (s.amon.get z)) ((amonWritten z k fs s).amon.get z)
      ∧ FaultsRaised (fs.map fun f => .configFault ⟨.zone, f, z.val⟩) s (amonWritten z k fs s) := by
  have raised := faultsRaised_configFaults (s := modAmon z (fieldsTaken k) s) ready .zone z.val fs
  have fields : (configFaults .zone z.val fs (modAmon z (fieldsTaken k) s)).amon.get z = fieldsTaken k (s.amon.get z) := by
    rw [configFaults_ready (s := modAmon z (fieldsTaken k) s) ready, raiseAll_amon]
    simp [modAmon]
  obtain ⟨noise, window⟩ := setWindow_work z (windowAtWrite k (s.amon.get z).window) none
    (configFaults .zone z.val fs (modAmon z (fieldsTaken k) s))
  rw [fields] at noise
  have own : FaultsRaised [] s (modAmon z (fieldsTaken k) s) := .of_ntu rfl rfl
  have all := (own.trans raised).trans window
  rw [List.nil_append, List.append_nil] at all
  exact ⟨noise, all⟩

theorem zosWritten_work {z : ZoneNo} {g : GainFields} {fs : List FaultField} {s : State} (ready : s.ptu.mode = .ready) :
    SameNoise (s.amon.get z) ((zosWritten z g fs s).amon.get z)
      ∧ FaultsRaised (fs.map fun f => .configFault ⟨.zone, f, z.val⟩) s (zosWritten z g fs s) := by
  have raised := faultsRaised_configFaults ready .zone z.val fs
  have steps : PageSteps (configFaults .zone z.val fs s) (zosWritten z g fs s) :=
    (pageSteps_tables rfl).trans (pageSteps_settle _ (takeGain z g (configFaults .zone z.val fs s)))
  have noise := steps.work.sameNoise z
  rw [configFaults_ready ready, raiseAll_amon] at noise
  have all := raised.trans steps.work.faultsRaised
  rw [List.append_nil] at all
  exact ⟨noise, all⟩

/-- A new flag's write, and then what the page controller does about it (R76). -/
theorem setZoneEnable_inputs (z : ZoneNo) (b : Bool) (s : State) :
    SameInputs { s with pctl := { s.pctl with enabled := putAt s.pctl.enabled z b } } (setZoneEnable z b s) := by
  by_cases same : s.pctl.enabled.get z = b
  · rw [setZoneEnable, if_pos same, ← same, putAt_self]
    exact SameInputs.refl s
  · have moves : Moves { s with pctl := { s.pctl with enabled := putAt s.pctl.enabled z b } } (setZoneEnable z b s) := by
      rw [setZoneEnable, if_neg same]
      refine Seq.trans (Seq.trans ?_ (moves_collect _ (moves_refreshPage _) _ _)) (moves_settle _ _)
      split
      · exact .refl _
      · exact moves_disableHeld z _
    exact moves.sameInputs

theorem amonWritten_inputs (z : ZoneNo) (k : AmonFields) (fs : List FaultField) (s : State) :
    SameInputs (modAmon z (fun a => { a with fields := k }) s) (amonWritten z k fs s) := by
  have fields : SameInputs (modAmon z (fun a => { a with fields := k }) s) (modAmon z (fieldsTaken k) s) :=
    { SameInputs.refl (modAmon z (fun a => { a with fields := k }) s) with
      noise := fun y => by
        simp only [modAmon, get_modAt]
        split <;> rfl }
  have moves : Moves (modAmon z (fieldsTaken k) s) (amonWritten z k fs s) :=
    (moves_configFaults _ _ _ _).trans (moves_setWindow _ _ _ _)
  exact fields.trans moves.sameInputs

theorem zosWritten_inputs (z : ZoneNo) (g : GainFields) (fs : List FaultField) (s : State) :
    SameInputs (modZos z (fun x => { x with gain := g }) s) (zosWritten z g fs s) := by
  have faults := (moves_configFaults .zone z.val fs s).sameInputs
  have taken : SameInputs (modZos z (fun x => { x with gain := g }) s) (takeGain z g (configFaults .zone z.val fs s)) :=
    { faults with
      gain := fun y => by
        simp only [takeGain_eq, modZos, get_modAt]
        split
        · rfl
        · exact faults.gain y }
  have settled : Moves (takeGain z g (configFaults .zone z.val fs s)) (zosWritten z g fs s) := moves_settle _ _
  exact taken.trans settled.sameInputs

end Sys2Proof.Machine
end

section
namespace Sys2Proof.Machine

theorem sameInputs_fields {s t : State} (h : SameInputs s t) (z : ZoneNo) (k : AmonFields) :
    SameInputs (modAmon z (fun a => { a with fields := k }) s) (modAmon z (fun a => { a with fields := k }) t) :=
  { h with
    noise := fun y => by
      simp only [modAmon, get_modAt]
      split
      · rfl
      · exact h.noise y }

theorem sameInputs_gain {s t : State} (h : SameInputs s t) (z : ZoneNo) (g : GainFields) :
    SameInputs (modZos z (fun x => { x with gain := g }) s) (modZos z (fun x => { x with gain := g }) t) :=
  { h with
    gain := fun y => by
      simp only [modZos, get_modAt]
      split
      · rfl
      · exact h.gain y }

section ZoneWord

variable (z : ZoneNo) (i : Fin 8) (d : Word) (be : ByteEnables) {s : State}

theorem enableWritten_inputs (s : State) :
    SameInputs { s with pctl := enablesTaken z i (bit (zoneWord z i d be s 0) 0) s.pctl } (enableWritten z i d be s) := by
  unfold enableWritten enablesTaken
  by_cases first : i = 0
  · rw [if_pos first, if_pos first]
    exact SameInputs.trans (sameInputs_of_ptu rfl) (setZoneEnable_inputs z _ (writeTaken (.zone z i) d be s))
  · rw [if_neg first, if_neg first]
    exact sameInputs_of_ptu rfl

theorem enableWritten_work (s : State) : PageWork (writeTaken (.zone z i) d be s) (enableWritten z i d be s) := by
  unfold enableWritten
  split
  · exact (pageSteps_setZoneEnable z _ _).work
  · exact PageWork.refl _

/-- What AMON's context keeps and takes, and the faults, of every write of a zone record. -/
theorem zoneRecordWritten_work (ready : s.ptu.mode = .ready) :
    SameNoise (noiseTaken (noiseFields z i d be s) (s.amon.get z))
        ((zoneRecordWritten z i (writeTaken (.zone z i) d be s)).amon.get z)
      ∧ FaultsRaised (noiseFaults z i d be s ++ gainNotices z i d be s) (writeTaken (.zone z i) d be s)
          (zoneRecordWritten z i (writeTaken (.zone z i) d be s)) := by
  have enable := enableWritten_work z i d be s
  have before : SameNoise (s.amon.get z) ((enableWritten z i d be s).amon.get z) := enable.sameNoise z
  have ready_e : (enableWritten z i d be s).ptu.mode = .ready := by
    rw [enable.ptu]
    exact ready
  obtain ⟨noise, heard⟩ := amonWritten_work (z := z) (k := noiseFields z i d be s)
    (fs := amonFaults (zoneWord z i d be s 2) (zoneWord z i d be s 3)) ready_e
  obtain ⟨kept, level⟩ := zosWritten_work (z := z) (g := gainFields z i d be s)
    (fs := gainFaults (zoneWord z i d be s 0) (zoneWord z i d be s 1))
    (s := amonWritten z (noiseFields z i d be s) (amonFaults (zoneWord z i d be s 2) (zoneWord z i d be s 3))
      (enableWritten z i d be s)) (by rw [heard.1, ready_e])
  rw [zoneRecordWritten_parts]
  have faults := (enable.faultsRaised.trans heard).trans level
  rw [List.nil_append] at faults
  exact ⟨((before.noiseTaken _).trans noise).trans kept, faults⟩

theorem zoneRecordWritten_inputs (s : State) :
    SameInputs (modZos z (fun x => { x with gain := gainFields z i d be s })
        (modAmon z (fun a => { a with fields := noiseFields z i d be s })
          { s with pctl := enablesTaken z i (bit (zoneWord z i d be s 0) 0) s.pctl }))
      (zoneRecordWritten z i (writeTaken (.zone z i) d be s)) := by
  have enable := enableWritten_inputs z i d be s
  have heard := amonWritten_inputs z (noiseFields z i d be s) (amonFaults (zoneWord z i d be s 2) (zoneWord z i d be s 3))
    (enableWritten z i d be s)
  rw [zoneRecordWritten_parts]
  exact ((sameInputs_gain (sameInputs_fields enable z _) z _).trans (sameInputs_gain heard z _)).trans
    (zosWritten_inputs z _ _ _)

end ZoneWord

/-- Settles O28: each kind of word by its owner's part, the zone records where no page reacts and for every write. -/
theorem recordWrites : Obligations.RecordWrites := by
  intro d be s ready port
  refine ⟨fun g i => ?_, fun g i => ?_, fun z i => ?_, fun x => pageTarget_written x d be ready port⟩
  · intro u w config
    refine ⟨groupHeader_inputs g i d be ready port, ?_⟩
    intro target off faults written
    refine ⟨fun short => ?_, fun refs bare => ⟨?_, ?_⟩⟩
    · rw [exec_groupHeaderWrite g i d be ready port, headerWritten_short g i d be ready target off short,
        shed_headerDecoded g i d be ready]
      rfl
    · intro noTarget surplus
      rw [exec_groupHeaderWrite g i d be ready port, headerWritten_deflects g i d be ready target off refs bare noTarget,
        shed_headerDecoded g i d be ready]
      rfl
    · intro x rest q k overflow hx hq long hk hops floor room calls place
      rw [exec_groupHeaderWrite g i d be ready port, headerWritten_overflows g i d be ready target off refs overflow hx hq
        (bare q (by rw [hq]; simp)) long hk hops floor room, shed_headerDecoded g i d be ready]
      rfl
  · intro u w word
    refine ⟨memberWord_inputs g i d be ready port, ?_⟩
    intro old new changed ignored faults counted untried
    have changed_eq : changedPositions g i d be s = changed := by
      rw [changedPositions, effectiveLine_eq, effectiveLine_eq]
      rfl
    have faults_eq : memberNotices g i d be s = faults := by
      have line : (memberFaults (copyOf (.member g i) (writeTaken (.member g i) d be s))).map (fun f =>
          Notice.configFault ⟨.member, f, 32 * g.val + i.val⟩)
          = if 1023 < bits w 0 16 then [.configFault ⟨.member, .line, 32 * g.val + i.val⟩] else [] := by
        by_cases large : 1023 < bits w 0 16
        · rw [if_pos large, memberFaults, faultIf, if_pos (decide_eq_true large)]
          rfl
        · rw [if_neg large, memberFaults, faultIf, if_neg (by rw [decide_eq_true_eq]; exact large)]
          rfl
      rw [memberNotices, ignoredPositions_eq, line]
      rfl
    have calls_eq : triedCleared g i d be s = if changed = [] then s.deng.calls else s.deng.calls.map untried := by
      rw [triedCleared, changed_eq, show clearTried g = untried from funext (clearTried_eq g)]
    rw [exec_memberWordWrite g i d be ready port, memberWritten_eq g i d be ready, memberRaised, changed_eq, calls_eq, faults_eq]
    rfl
  · intro u w k g pctl a x b faults noise gain change isFault
    have owns := owns_zoneRecordWritten z i u
    have run := exec_zoneRecordWrite z i d be ready port
    have record : noiseTaken (noiseFields z i d be s) (s.amon.get z) = b := noiseTaken_eq _ _
    obtain ⟨same, -, ns, raised, split⟩ := zoneRecordWritten_work z i d be ready
    refine ⟨⟨_, run, owns.fixed.2.1, owns.fixed.2.2, zoneRecordWritten_inputs z i d be s, ?_, ?_, ?_, same.ne, ns, ?_, split⟩, ?_⟩
    · rw [← record]; exact same.dc
    · rw [← record]; exact same.silence
    · rw [← record]; exact same.window
    · rw [raised, raiseAll_ntuAfter]
    · intro enable quiet audible
      refine ⟨stageWritten z i d be s, ?_, rfl, stageHeard_fifo _ _ _ _ _, ?_, gainTaken_stageHeard_ga _ _ _ _ _ _,
        gainTaken_rampAt_none _ _ _ _ _, ?_⟩
      · rw [run, zoneRecordWritten_eq z i d be ready enable (by rw [← record] at quiet; exact quiet) audible]
        rw [windowChange, record]
        rfl
      · rw [← record]
        exact gainTaken_gt _ _ _ _ _
      · intro window
        have stage : stageWritten z i d be s = gainTaken (s.pctl.holders.get z) b s.ptu.clock (gainFields z i d be s) x := by
          rw [stageWritten, stageHeard, record, if_pos window]
        rw [stage]
        exact gainTaken_rampAt _ _ _ _ _

end Sys2Proof.Machine
end

section
namespace Sys2Proof.Machine

/-! ### Park slots filled and freed (R62, R63, R66 to R68) -/

theorem exec_park {n : SlotNo} {s : State} (h : Served 0x09 n s) :
    exec .park s = .next (finishSlot n (park (s.rqu.slots.get n).snapshot (pointed n s)).2
      (park (s.rqu.slots.get n).snapshot (pointed n s)).1) :=
  congrArg Host.Outcome.next (command_of_served h park)

theorem exec_retrieve {n : SlotNo} {s : State} (h : Served 0x0A n s) :
    exec .retrieve s = .next (finishSlot n (retrieve (s.rqu.slots.get n).snapshot (pointed n s)).2
      (retrieve (s.rqu.slots.get n).snapshot (pointed n s)).1) :=
  congrArg Host.Outcome.next (command_of_served h retrieve)

/-- A slot that is freed ends its linked page, if it has one, before it is empty (R66). -/
theorem freePark_eq {k : ParkNo} {x : Park} {s : State} (h : s.deng.parks.get k = some x) :
    freePark k s = putPark k none (if x.page = none then s else linkedEnd (.park k) s) := by
  unfold freePark
  cases hp : x.page <;> simp [h, hp]

theorem givenLine_eq {given : Bool} {n : Nat} {x : Option LineNo}
    (h : if given = true then ∃ l : LineNo, x = some l ∧ n = l.val else x = none) : givenLine given n = some x := by
  cases given with
  | false => simpa [givenLine] using h.symm
  | true =>
    obtain ⟨l, rfl, rfl⟩ := h
    simp [givenLine, lineParam_val]

/-- The slot PARK fills is the empty one named, or with ANY the lowest empty one (R62, R63). -/
theorem parkSlot_eq {k : ParkNo} {wanted : Nat} {s : State} (empty : s.deng.parks.get k = none)
    (h : wanted = k.val ∨ (wanted = 0xFF ∧ ∀ j < k, s.deng.parks.get j ≠ none)) : parkSlot wanted s = some k := by
  obtain rfl | ⟨rfl, lower⟩ := h
  · have named : k.val ≠ 0xFF := by omega
    simp [parkSlot, named, empty]
  · rw [parkSlot, if_pos rfl, find?_finRange_eq_some]
    exact ⟨by simpa using empty, fun j hj => by simpa using lower j hj⟩

/-- PARK of a reference nothing holds, in a slot that takes it (R62, R63). -/
theorem park_of_slot {p : Params} {k : ParkNo} {parker held : Option LineNo} {s : State}
    (ref : (BitVec.ofNat 16 (bits p.p0 0 16) : CallRef) ≠ 0) (unheld : refHeld (BitVec.ofNat 16 (bits p.p0 0 16)) s = false)
    (empty : s.deng.parks.get k = none)
    (slot : bits p.p2 0 8 = k.val ∨ (bits p.p2 0 8 = 0xFF ∧ ∀ j < k, s.deng.parks.get j ≠ none))
    (parkerGiven : givenLine (bit p.p1 15) (bits p.p1 0 12) = some parker)
    (heldGiven : givenLine (bit p.p1 31) (bits p.p1 16 12) = some held) :
    park p s = makePark k (BitVec.ofNat 16 (bits p.p0 0 16)) parker held p s := by
  have range : ¬ (15 < bits p.p2 0 8 ∧ bits p.p2 0 8 ≠ 0xFF) := by omega
  simp only [park, parkerGiven, heldGiven, ref, range, or_self, if_false, unheld, Bool.false_eq_true, parkSlot_eq empty slot]

/-- The state with a park of a reference in a slot, its timer started, and the page it names (R60, R63). -/
def parkedIn (k : ParkNo) (r : CallRef) (parker held : Option LineNo) (page : Option PageNo) (s : State) : State :=
  putPark k (some ⟨r, parker, held, s.ptu.clock + 1000 * s.deng.parkTime, page⟩) s

theorem linkPark_parkedIn (k : ParkNo) (r : CallRef) (parker held : Option LineNo) (page : PageNo) (s : State) :
    linkPark k page (parkedIn k r parker held none s) = parkedIn k r parker held (some page) s := by
  simp [linkPark, parkedIn, putPark, putAt_putAt]

section MakePark

variable {p : Params} (k : ParkNo) (r : CallRef) (parker held : Option LineNo) (s : State)

theorem makePark_alone (unasked : bit p.p2 31 = false) :
    makePark k r parker held p s = (parkedIn k r parker held none s, ⟨.ok, packed [(k.val, 0)], 0⟩) := by
  simp only [makePark, unasked, Bool.false_eq_true, if_false]
  rfl

/-- A park whose page is refused stands without it (R63, R95). -/
theorem makePark_refused {e : ResultCode} (asked : bit p.p2 31 = true)
    (refused : checkPage (parkPage k p.p3) (parkedIn k r parker held none s) = .error e) :
    makePark k r parker held p s
      = (parkedIn k r parker held none s, ⟨.ok, packed [(k.val, 0), (2, 8), (resultValue e, 24)], 0⟩) := by
  unfold parkedIn at refused
  simp only [makePark, asked, if_true, after, refused]
  rfl

/-- A park names its page before the page's acquisition pass (R63, log entry 24). -/
theorem makePark_paged {page : PageNo} {record : PageRec} (asked : bit p.p2 31 = true)
    (made : checkPage (parkPage k p.p3) (parkedIn k r parker held none s) = .ok (page, record)) :
    makePark k r parker held p s
      = (makeAccepted page record (parkedIn k r parker held (some page) s),
        ⟨.ok, packed [(k.val, 0), (1, 8), (page.val, 16)], 0⟩) := by
  rw [← linkPark_parkedIn]
  unfold parkedIn at made ⊢
  simp only [makePark, asked, if_true, after, made]

end MakePark

/-- A request that R93 refuses is answered with the refusal. -/
theorem checkPage_error {q : PageRequest} {e : ResultCode} {s : State}
    (h : pageRefusal q.target q.kind q.number q.preamble q.maxDuration q.waitLimit s = some e) : checkPage q s = .error e := by
  have spec := checkPage_spec q s
  cases hc : checkPage q s with
  | error d =>
    rw [hc] at spec
    exact congrArg _ (Option.some.inj (spec.symm.trans h))
  | ok a =>
    rw [hc] at spec
    exact nomatch spec.1.symm.trans h

/-- A request that R93 does not refuse is answered with the lowest free record. -/
theorem checkPage_ok {q : PageRequest} {p : PageNo} {s : State}
    (h : pageRefusal q.target q.kind q.number q.preamble q.maxDuration q.waitLimit s = none) (free : s.pctl.pages.get p = none)
    (lowest : ∀ j < p, s.pctl.pages.get j ≠ none) :
    ∃ x, requestSource q = some x ∧ checkPage q s = .ok (p, requestedPage q x) := by
  have record : freePage s = some p := by
    rw [freePage, find?_finRange_eq_some]
    exact ⟨by simp [free], fun j hj => by simpa using lowest j hj⟩
  have spec := checkPage_spec q s
  cases hc : checkPage q s with
  | error d =>
    rw [hc] at spec
    exact nomatch spec.symm.trans h
  | ok a =>
    rw [hc] at spec
    obtain ⟨-, hp, x, hx, hr⟩ := spec
    exact ⟨x, hx, congrArg _ (Prod.ext (Option.some.inj (hp.symm.trans record)) hr)⟩

/-- The source of a park's page is a tone or a clip (R64). -/
theorem requestSource_parkPage {k : ParkNo} {w : Word} {x : PageSource} (h : requestSource (parkPage k w) = some x) :
    x = if w.getLsbD 8 = true then .tone (Fin.ofNat 16 (bits w 16 8)) else .clip (Fin.ofNat 64 (bits w 16 8)) := by
  have kind : (parkPage k w).kind = if w.getLsbD 8 = true then 3 else 2 := rfl
  obtain ⟨live, -⟩ | ⟨clip, rfl⟩ | ⟨tone, rfl⟩ := requestSource_some _ _ h
  · rw [kind] at live
    split at live <;> cases live
  · rw [if_neg fun on => by rw [kind, if_pos on] at clip; cases clip]
    rfl
  · have on : w.getLsbD 8 = true := by
      by_contra off
      rw [kind, if_neg off] at tone
      cases tone
    rw [if_pos on]
    rfl

/-- Settles O43: PARK makes a park in its slot, by what its page comes to. -/
theorem parkFills : Obligations.ParkFills := by
  intro n s k parker held hs p r ref unheld empty slot parkerGiven heldGiven filled tone refusal
  have made : park p (pointed n s) = makePark k r parker held p (pointed n s) :=
    park_of_slot ref unheld empty slot (givenLine_eq parkerGiven) (givenLine_eq heldGiven)
  refine ⟨fun unasked => ?_, fun e asked refused => ?_, ?_⟩
  · rw [exec_park hs, made, makePark_alone k r parker held (pointed n s) unasked]
    rfl
  · have checked : checkPage (parkPage k p.p3) (filled none) = .error e := checkPage_error refused
    rw [exec_park hs, made, makePark_refused k r parker held (pointed n s) asked checked]
    rfl
  · intro page asked accepted free lowest record
    obtain ⟨x, source, checked⟩ := checkPage_ok (q := parkPage k p.p3) (s := filled none) accepted free lowest
    rw [exec_park hs, made, makePark_paged k r parker held (pointed n s) asked checked, requestSource_parkPage source]
    rfl

/-- RETRIEVE whose parameters name a line and an occupied slot (R67). -/
theorem retrieve_of_slot {p : Params} {r : LineNo} {k : ParkNo} {x : Park} {s : State} (hr : bits p.p0 0 16 = r.val)
    (hk : bits p.p1 0 8 = k.val) (h : s.deng.parks.get k = some x) :
    retrieve p s = if x.held = some r then (s, Reply.bare .notPermitted) else (freePark k s, retrieveReply x) := by
  have range : ¬ 15 < k.val := by omega
  have slot : Fin.ofNat 16 k.val = k := by simp
  simp only [retrieve, hr, lineParam_val, hk, range, if_false, slot, h]

/-- Settles O44: each command frees the slot, and the freeing is `freePark_eq`. -/
theorem parkFreed : Obligations.ParkFreed := by
  intro k s x hx freed
  have freePark_freed : ∀ u : State, u.deng.parks = s.deng.parks → freePark k u = freed u := fun u hu =>
    freePark_eq (hu ▸ hx)
  refine ⟨fun n r hs hr hk other => ?_, fun n r hs hr hk own => ?_, fun due => ?_⟩
  · rw [exec_retrieve hs, retrieve_of_slot (s := pointed n s) hr hk hx, if_neg other, freePark_freed (pointed n s) rfl]
    rfl
  · rw [exec_retrieve hs, retrieve_of_slot (s := pointed n s) hr hk hx, if_pos own]
    rfl
  · have recalled := freePark_freed (raiseNotice (.parkRecall k x.ref x.parker x.held) s) (raiseAll_deng [_] s ▸ rfl)
    show execParkTimerExpiry k s = _
    simp only [execParkTimerExpiry, hx, due, if_true, recalled]

end Sys2Proof.Machine
end

section
namespace Sys2Proof.Machine

/-! ### A page that takes an end cause (R65, R84, R90, R91) -/

/-- Only the own end of a park's page clears a link (R65). -/
theorem linkCleared_other {p : PageNo} {r : PageRec} {c : EndCause} {s : State} (h : ∀ n, r.origin = .park n → c = .linked) :
    linkCleared p r c s = s.deng.parks := by
  unfold linkCleared
  split
  · rfl
  · rfl
  · rfl
  · next n hr own => exact absurd (h n hr) own

theorem linkCleared_own {p : PageNo} {r : PageRec} {c : EndCause} {n : ParkNo} {s : State} (hr : r.origin = .park n)
    (own : c ≠ .linked) : linkCleared p r c s = putAt s.deng.parks n ((s.deng.parks.get n).map fun x =>
      if x.page = some p then { x with page := none } else x) := by
  cases c with
  | linked => exact absurd rfl own
  | _ => simp only [linkCleared, hr]

/-- A slot's link is cleared where it names the page (R65). -/
theorem clearParkLink_eq (n : ParkNo) (p : PageNo) (s : State) :
    clearParkLink n p s = { s with deng := { s.deng with
      parks := putAt s.deng.parks n ((s.deng.parks.get n).map fun x => if x.page = some p then { x with page := none } else x) } } := by
  have same : ∀ x, s.deng.parks.get n = x → putAt s.deng.parks n x = s.deng.parks := fun x h => h ▸ putAt_self _ _
  unfold clearParkLink
  split
  · next x hx =>
    split
    · next linked => simp [hx, linked, putPark]
    · next unlinked => simp [hx, unlinked, same _ hx]
  · next hx => simp [hx, same _ hx]

/-- The end of a page is reported to DENG, which clears the slot's link where the end is the page's own (R65). -/
theorem reportOwnEnd_eq {p : PageNo} {r k : PageRec} {c : EndCause} {s : State} (origin : k.origin = r.origin) :
    reportOwnEnd p k c s = { s with deng := { s.deng with parks := linkCleared p r c s } } := by
  unfold reportOwnEnd
  rw [origin]
  split
  · next n hr =>
    split
    · next linked => rw [linkCleared_other fun _ _ => linked]
    · next own => rw [linkCleared_own hr own, clearParkLink_eq]
  · next other => rw [linkCleared_other fun n hr => absurd hr (other n)]

/-- The record of a page with an end cause, its wanted set empty and its timers stopped (R90). -/
def endedRec (r : PageRec) (c : EndCause) : PageRec := { r with endCause := some c, wanted := [], waitAt := none, maxAt := none }

/-- The state in which a page has taken an end cause, reported to DENG, before its zones are looked at (R65, R90). -/
def endTaken (p : PageNo) (r : PageRec) (c : EndCause) (s : State) : State :=
  { putPage p (some (endedRec r c)) s with deng := { s.deng with parks := linkCleared p r c s } }

/-- The state in which a page that ends holding zones has entered RELEASING, before it lets them go (R84, R90, R92). -/
def releasing (p : PageNo) (r : PageRec) (c : EndCause) (s : State) : State :=
  pageNotice p { endedRec r c with state := .releasing } .releasing (some c)
    (putPage p (some { endedRec r c with state := .releasing }) (endTaken p r c s))

/-- A page lets some zones go one after another. -/
def zonesLetGo (zs : List ZoneNo) (s : State) : State := zs.foldl (fun s z => zoneLetting true z s) s

/-- A page that takes an end cause is freed at once, or lets go every zone it holds (R90). -/
theorem takeEndCause_cases {p : PageNo} {r : PageRec} {s : State} (c : EndCause) (page : s.pctl.pages.get p = some r)
    (unended : r.endCause = none) : takeEndCause p c s =
      if heldZones p s = [] then freePageRecord p (endedRec r c) (endTaken p r c s)
      else (zonesLetGo (heldZones p s) (releasing p r c s), (heldZones p s).map .zero ++ [.pass]) := by
  have reported : reportOwnEnd p r c (putPage p (some (endedRec r c)) s) = endTaken p r c s := reportOwnEnd_eq rfl
  have held : heldZones p (endTaken p r c s) = heldZones p s := heldZones_congr rfl
  rw [endedRec] at reported
  rw [takeEndCause, page]
  simp only [unended, reported, held, Option.isSome_none, Bool.false_eq_true, if_false]
  rfl

/-- A page that takes an end cause holding no zone is freed; no group waits for its record (R90, R91). -/
theorem endPage_freed {p : PageNo} {r : PageRec} {c : EndCause} {s : State} (page : s.pctl.pages.get p = some r)
    (unended : r.endCause = none) (held : heldZones p s = []) (nobody : s.pctl.waitList = []) :
    endPage p c s = pageFreed p r c s := by
  have out : freePageRecord p (endedRec r c) (endTaken p r c s) = offerRecord (pageFreed p r c s) := by
    rw [freePageRecord, pageFreed, recordFreed, endTaken, endedRec]
    simp only [putPage, putAt_putAt, stopContext, putFetch, modContext, modAt_eq_putAt, pageNotice, raiseNotice_ntuAfter]
  have finish : pageTask (.finish p c) s = (pageFreed p r c s, []) := by
    rw [pageTask, takeEndCause_cases c page unended, if_pos held, out]
    exact offerRecord_of_nobody nobody
  rw [endPage, settle_one (by rw [finish]), finish]

/-! ### Zones let go (R84, R135, R138, R139) -/

/-- A stage brought up to date under a holder is the one that R135 to R139 spell out. -/
theorem regained_eq_heldStage (h : Holder) (a : AmonZone) (x : ZosZone) (s : State) :
    regained (some h) a s.ptu.clock x = heldStage h a x s := by
  have ga : (if emergencyHeld (some h) = true then targetGain (some h) a x.gain else x.ga)
      = if h.priority = .emergency ∧ h.lettingGo = false then x.gain.gmax else x.ga := by
    have held : emergencyHeld (some h) = true ↔ h.priority = .emergency ∧ h.lettingGo = false := by simp [emergencyHeld]
    rw [← if_congr held rfl rfl]
    split
    · next e => exact targetGain_emergency e a x.gain
    · rfl
  have ramp : ∀ gt ga, rampTimer gt ga x.rampAt (s.ptu.clock + x.gain.ramp) = rampTo gt ga x s := fun gt ga => by
    unfold rampTimer rampTo
    cases x.rampAt <;> rfl
  rw [regained, ga, ramp, targetGain_eq]
  rfl

/-- A stage depends on the state by its clock alone. -/
theorem heldStage_congr {s t : State} (h : t.ptu = s.ptu) (k : Holder) (a : AmonZone) (x : ZosZone) :
    heldStage k a x t = heldStage k a x s := by
  simp only [heldStage, rampTo, h]

/-- A held zone that is let go: its entry says so, and its stage follows (R84). -/
def zoneGone (z : ZoneNo) (h : Holder) (s : State) : State :=
  let stage := heldStage { h with lettingGo := true } (s.amon.get z) (s.zos.zones.get z) s
  { s with
    pctl := { s.pctl with holders := putAt s.pctl.holders z (some { h with lettingGo := true }) }
    zos := { s.zos with zones := putAt s.zos.zones z stage } }

theorem zoneLetting_held {z : ZoneNo} {h : Holder} {s : State} (held : s.pctl.holders.get z = some h) :
    zoneLetting true z s = zoneGone z h s := by
  rw [zoneLetting, held]
  simp only [regain_eq, putHolder, modZos, modAt_eq_putAt, get_putAt, if_true, regained_eq_heldStage, zoneGone]

/-- Zones that are let go touch the holder table and ZOS's zones, and nothing else. -/
def LetGoOnly (s t : State) : Prop :=
  t = { s with pctl := { s.pctl with holders := t.pctl.holders }, zos := { s.zos with zones := t.zos.zones } }

theorem LetGoOnly.trans {s t u : State} (h : LetGoOnly s t) (k : LetGoOnly t u) : LetGoOnly s u := by
  rw [LetGoOnly] at *
  rw [k, h]

theorem zoneLetting_only (z : ZoneNo) (s : State) : LetGoOnly s (zoneLetting true z s) := by
  cases held : s.pctl.holders.get z with
  | none => simp only [zoneLetting, held]; rfl
  | some h => rw [zoneLetting_held held]; rfl

theorem zoneLetting_holders (z : ZoneNo) (s : State) (y : ZoneNo) : (zoneLetting true z s).pctl.holders.get y =
    if y = z then (s.pctl.holders.get y).map fun h => { h with lettingGo := true } else s.pctl.holders.get y := by
  cases held : s.pctl.holders.get z with
  | none => by_cases e : y = z <;> simp [zoneLetting, held, e]
  | some h => by_cases e : y = z <;> simp [zoneLetting_held held, zoneGone, held, e]

theorem zoneLetting_zones_other {z y : ZoneNo} (ne : y ≠ z) (s : State) :
    (zoneLetting true z s).zos.zones.get y = s.zos.zones.get y := by
  cases held : s.pctl.holders.get z with
  | none => simp only [zoneLetting, held]
  | some h => simp [zoneLetting_held held, zoneGone, ne]

theorem zonesLetGo_cons (z : ZoneNo) (zs : List ZoneNo) (s : State) :
    zonesLetGo (z :: zs) s = zonesLetGo zs (zoneLetting true z s) := rfl

theorem zonesLetGo_only (zs : List ZoneNo) (s : State) : LetGoOnly s (zonesLetGo zs s) := by
  induction zs generalizing s with
  | nil => rfl
  | cons z zs ih => exact (zoneLetting_only z s).trans (ih _)

/-- The entry of every zone let go says so. -/
theorem zonesLetGo_holders (zs : List ZoneNo) (s : State) (y : ZoneNo) : (zonesLetGo zs s).pctl.holders.get y =
    if y ∈ zs then (s.pctl.holders.get y).map fun h => { h with lettingGo := true } else s.pctl.holders.get y := by
  induction zs generalizing s with
  | nil => rfl
  | cons z zs ih =>
    rw [zonesLetGo_cons, ih, zoneLetting_holders]
    by_cases hy : y ∈ zs <;> by_cases e : y = z <;> simp [hy, e, Function.comp_def]

/-- The stage of a zone that is not let go stays. -/
theorem zonesLetGo_zones_other {zs : List ZoneNo} {y : ZoneNo} (h : y ∉ zs) (s : State) :
    (zonesLetGo zs s).zos.zones.get y = s.zos.zones.get y := by
  induction zs generalizing s with
  | nil => rfl
  | cons z zs ih =>
    obtain ⟨ne, later⟩ : y ≠ z ∧ y ∉ zs := by simpa using h
    rw [zonesLetGo_cons, ih later, zoneLetting_zones_other ne]

/-- The stage of a zone that is let go follows its entry (R84). -/
theorem zonesLetGo_zones_mem {zs : List ZoneNo} {y : ZoneNo} {h : Holder} {s : State} (distinct : zs.Nodup) (hy : y ∈ zs)
    (held : s.pctl.holders.get y = some h) : (zonesLetGo zs s).zos.zones.get y
      = heldStage { h with lettingGo := true } (s.amon.get y) (s.zos.zones.get y) s := by
  induction zs generalizing s with
  | nil => cases hy
  | cons z zs ih =>
    obtain ⟨hz, distinct⟩ := List.nodup_cons.mp distinct
    rw [zonesLetGo_cons]
    obtain rfl | later := List.mem_cons.mp hy
    · rw [zonesLetGo_zones_other hz, zoneLetting_held held]
      simp [zoneGone]
    · have ne : y ≠ z := ne_of_mem_of_not_mem later hz
      have ptu : (zoneLetting true z s).ptu = s.ptu := by rw [zoneLetting_only z s]
      have amon : (zoneLetting true z s).amon = s.amon := by rw [zoneLetting_only z s]
      rw [ih distinct later (by rw [zoneLetting_holders, if_neg ne, held]), zoneLetting_zones_other ne, heldStage_congr ptu, amon]

/-- Tasks that leave the state as it is and leave nothing to do. -/
theorem runTasks_idle {ts : List PageTask} {s : State} (h : ∀ t ∈ ts, pageTask t s = (s, [])) (n : Nat) : runTasks n ts s = s := by
  induction n generalizing ts with
  | zero => rfl
  | succ n ih =>
    cases ts with
    | nil => rfl
    | cons t ts =>
      rw [runTasks, h t (by simp)]
      exact ih fun u hu => h u (List.mem_cons_of_mem t hu)

/-! ### A page that ends holding zones (R84, R90) -/

theorem mem_heldZones {p : PageNo} {s : State} {z : ZoneNo} :
    z ∈ heldZones p s ↔ ∃ h, s.pctl.holders.get z = some h ∧ h.page = p := by
  simp only [heldZones, List.mem_filter, List.mem_finRange, true_and]
  cases s.pctl.holders.get z <;> simp

theorem heldZones_nodup (p : PageNo) (s : State) : (heldZones p s).Nodup := (List.nodup_finRange 24).filter _

section Letting

variable {p : PageNo} {r : PageRec} {s : State} (c : EndCause)

/-- The state in which a page that ends has let go every zone it holds. -/
def letGone (p : PageNo) (r : PageRec) (c : EndCause) (s : State) : State := zonesLetGo (heldZones p s) (releasing p r c s)

theorem releasing_eq : releasing p r c s = { raiseNotice (.pageState p .releasing (some c) r.origin r.priority) s with
    deng := { s.deng with parks := linkCleared p r c s }
    pctl := { s.pctl with pages := putAt s.pctl.pages p (some { endedRec r c with state := .releasing }) } } := by
  simp only [releasing, endTaken, pageNotice, putPage, raiseNotice_ntuAfter, putAt_putAt]
  rfl

theorem letGone_only : LetGoOnly (releasing p r c s) (letGone p r c s) := zonesLetGo_only _ _

/-- The page's entries say that it lets go, and the others stay. -/
theorem letGone_holders (z : ZoneNo) : (letGone p r c s).pctl.holders.get z =
    (s.pctl.holders.get z).map fun h => if h.page = p then { h with lettingGo := true } else h := by
  have holders : (releasing p r c s).pctl.holders = s.pctl.holders := by rw [releasing_eq]
  rw [letGone, zonesLetGo_holders, holders]
  cases held : s.pctl.holders.get z with
  | none => simp
  | some h => by_cases e : h.page = p <;> simp [mem_heldZones, held, e]

theorem letGone_zones_other {z : ZoneNo} (h : z ∉ heldZones p s) : (letGone p r c s).zos.zones.get z = s.zos.zones.get z := by
  rw [letGone, zonesLetGo_zones_other h, releasing_eq, raiseNotice_ntuAfter]

theorem letGone_zones_held {z : ZoneNo} {h : Holder} (held : s.pctl.holders.get z = some h) (page : h.page = p) :
    (letGone p r c s).zos.zones.get z = heldStage { h with lettingGo := true } (s.amon.get z) (s.zos.zones.get z) s := by
  rw [letGone, zonesLetGo_zones_mem (heldZones_nodup p s) (mem_heldZones.mpr ⟨h, held, page⟩) (by rw [releasing_eq]; exact held),
    releasing_eq, raiseNotice_ntuAfter]
  rfl

/-- A zone that was let go has kept a gain above 0, so that ZOS reports nothing (R84, R139, R141). -/
theorem zeroReport_letGone {z : ZoneNo} (mem : z ∈ heldZones p s) (audible : (s.zos.zones.get z).ga ≠ 0) :
    zeroReport z (letGone p r c s) = (letGone p r c s, []) := by
  obtain ⟨h, held, page⟩ := mem_heldZones.mp mem
  have ga : ((letGone p r c s).zos.zones.get z).ga = (s.zos.zones.get z).ga := by
    rw [letGone_zones_held c held page, heldStage]
    simp
  unfold zeroReport
  split
  · rw [if_neg fun due => audible (ga.symm.trans due.2)]
  · rfl

/-- The one page of the Page Order is RELEASING, so that a pass visits none (R82). -/
theorem pass_letGone (only : s.pctl.pageOrder = [p]) : acquisitionPass (letGone p r c s) = (letGone p r c s, []) := by
  have order : (letGone p r c s).pctl.pageOrder = [p] := by rw [letGone_only c, releasing_eq]; exact only
  have page : (letGone p r c s).pctl.pages.get p = some { endedRec r c with state := .releasing } := by
    rw [letGone_only c, releasing_eq]
    simp
  have nobody : passOrder (letGone p r c s) = [] := by simp [passOrder, order, page, livePage]
  rw [acquisitionPass, nobody, collect_nil]

theorem endPage_letGone (h : EndsHolding p r s) : endPage p c s = letGone p r c s := by
  have idle : ∀ t ∈ (heldZones p s).map .zero ++ [.pass], pageTask t (letGone p r c s) = (letGone p r c s, []) := fun t ht => by
    obtain zero | pass := List.mem_append.mp ht
    · obtain ⟨z, hz, rfl⟩ := List.mem_map.mp zero
      exact zeroReport_letGone c hz (h.audible z hz)
    · obtain rfl := List.mem_singleton.mp pass
      exact pass_letGone c h.only
  have finish : pageTask (.finish p c) s = (letGone p r c s, (heldZones p s).map .zero ++ [.pass]) := by
    rw [pageTask, takeEndCause_cases c h.page h.unended, if_neg h.holds]
    rfl
  show runTasks 4095 ((pageTask (.finish p c) s).2 ++ []) (pageTask (.finish p c) s).1 = _
  rw [finish, List.append_nil]
  exact runTasks_idle idle _

theorem endPage_released (h : EndsHolding p r s) : Released p r c s (endPage p c s) := by
  have inputs := (moves_endPage p c s).sameInputs
  rw [endPage_letGone c h] at inputs ⊢
  have only := letGone_only (p := p) (r := r) (s := s) c
  have holders : (letGone p r c s).pctl.holders
      = Vector.ofFn fun z => (s.pctl.holders.get z).map fun h => if h.page = p then { h with lettingGo := true } else h :=
    vector_ext_get fun z => by rw [letGone_holders, get_ofFn]
  rw [LetGoOnly, releasing_eq, raiseNotice_ntuAfter] at only
  exact
    { pctl := by rw [only, holders]; rfl
      held := fun z k => letGone_zones_held c
      others := fun z => letGone_zones_other c
      links := by rw [only]; exact ⟨rfl, rfl⟩
      inputs := inputs
      deng := by rw [only]
      rest := by rw [only]; exact ⟨rfl, rfl, rfl, rfl, rfl, rfl⟩
      ntu := by rw [only, raiseNotice_ntuAfter] }

end Letting

/-! ### PAGE_END and the page timers (R87, R89, R94) -/

theorem exec_pageEnd {n : SlotNo} {s : State} (h : Served 0x0C n s) :
    exec .pageEnd s = .next (finishSlot n (pageEnd (s.rqu.slots.get n).snapshot (pointed n s)).2
      (pageEnd (s.rqu.slots.get n).snapshot (pointed n s)).1) :=
  congrArg Host.Outcome.next (command_of_served h pageEnd)

/-- PAGE_END of a page that no group owns and that has not ended (R94). -/
theorem pageEnd_unended {p : PageNo} {r : PageRec} {q : Params} {s : State} (hp : bits q.p0 0 8 = p.val)
    (page : s.pctl.pages.get p = some r) (unended : r.endCause = none) (owner : ∀ g, r.origin ≠ .group g) :
    pageEnd q s = (endPage p .request s, endReply p (endPage p .request s)) := by
  have range : ¬ 15 < p.val := by omega
  have number : Fin.ofNat 16 p.val = p := by simp
  cases origin : r.origin with
  | group g => exact absurd origin (owner g)
  | request => exact pageEnd_request hp page origin unended
  | park k => simp only [pageEnd, hp, range, if_false, number, page, origin, unended]

theorem exec_waitLimitExpiry_due {p : PageNo} {r : PageRec} {e : Nat} {s : State} (page : s.pctl.pages.get p = some r)
    (pending : r.state = .pending) (timer : r.waitAt = some e) (due : e ≤ s.ptu.clock) :
    exec (.waitLimitExpiry p) s = .next (endPage p .waitLimit s) :=
  if_pos (by simp [pageTimerDue, page, pending, timer, expired, due])

theorem exec_maxDurationExpiry_due {p : PageNo} {r : PageRec} {e : Nat} {s : State} (page : s.pctl.pages.get p = some r)
    (active : r.state = .active) (timer : r.maxAt = some e) (due : e ≤ s.ptu.clock) :
    exec (.maxDurationExpiry p) s = .next (endPage p .maxDuration s) :=
  if_pos (by simp [pageTimerDue, page, active, timer, expired, due])

theorem endReply_freed (p : PageNo) (r : PageRec) (c : EndCause) (s : State) : endReply p (pageFreed p r c s) = ⟨.ok, 0, 0⟩ := by
  simp [endReply, pageFreed, recordFreed, Reply.bare]

theorem endReply_released {p : PageNo} {r : PageRec} {s t : State} (h : Released p r .request s t) :
    endReply p t = ⟨.ok, packed [(4, 0)], 0⟩ := by
  have page : t.pctl.pages.get p = some { r with
      state := .releasing, endCause := some .request, wanted := [], waitAt := none, maxAt := none } := by simp [h.pctl]
  simp only [endReply, page, if_true, pageStateValue]

/-- Settles O49: each event gives the page its end cause, and what follows is `endPage_freed` or `endPage_released`. -/
theorem pageEnds : Obligations.PageEnds := by
  intro p s r page unended
  refine ⟨fun held nobody => ⟨fun n hs hp owner => ?_, fun e pending timer due => ?_, fun e active timer due => ?_⟩,
    fun holding => ⟨fun n hs hp owner => ?_, fun e active timer due => ?_⟩⟩
  · rw [exec_pageEnd hs, pageEnd_unended (s := pointed n s) hp page unended owner,
      endPage_freed (s := pointed n s) page unended held nobody, endReply_freed]
  · rw [exec_waitLimitExpiry_due page pending timer due, endPage_freed page unended held nobody]
  · rw [exec_maxDurationExpiry_due page active timer due, endPage_freed page unended held nobody]
  · have released : Released p r .request (pointed n s) _ := endPage_released .request { holding with }
    have reply := endReply_released released
    exact ⟨_, released, by rw [exec_pageEnd hs, pageEnd_unended (s := pointed n s) hp page unended owner, reply]⟩
  · exact ⟨_, exec_maxDurationExpiry_due page active timer due, endPage_released .maxDuration holding⟩

end Sys2Proof.Machine
end

section
namespace Sys2Proof.Machine

/-! ### What freeing a call starts: its group's floor condition and the arbitration of its lines (R9, R41, R46) -/

/-- What a floor evaluation or an arbitration of some lines can do: no call comes or goes; notices are only added; no other line's
reservation changes, and a line is reserved anew only for a call in use; and where no group has a floor-ring target, none of the page
controller's tables, the parks, the players, and the zones change. -/
structure Arbitrated (ls : List LineNo) (s t : State) : Prop where
  refs : t.deng.calls.map (·.ref) = s.deng.calls.map (·.ref)
  ptu : t.ptu = s.ptu
  notices : ∃ ns, t.ntu = ntuAfter ns s.ptu s.ntu
  others : ∀ l ∉ ls, (t.lmon.shadows.get l).reservation = (s.lmon.shadows.get l).reservation
  lines : ∀ l r, (t.lmon.shadows.get l).reservation = some r →
    (s.lmon.shadows.get l).reservation = some r ∨ r ∈ s.deng.calls.map (·.ref)
  quiet : (∀ g, FloorOff g s) → (∀ g, FloorOff g t) ∧ t.deng.parks = s.deng.parks ∧ t.pctl = s.pctl ∧ t.ctp = s.ctp
    ∧ t.amon = s.amon ∧ t.zos = s.zos

namespace Arbitrated

variable {ls : List LineNo} {s t u : State}

theorem refl (ls : List LineNo) (s : State) : Arbitrated ls s s :=
  ⟨rfl, rfl, ⟨[], rfl⟩, fun _ _ => rfl, fun _ _ h => .inl h, fun off => ⟨off, rfl, rfl, rfl, rfl, rfl⟩⟩

theorem trans (h : Arbitrated ls s t) (k : Arbitrated ls t u) : Arbitrated ls s u where
  refs := k.refs.trans h.refs
  ptu := k.ptu.trans h.ptu
  notices := by
    obtain ⟨ms, em⟩ := h.notices
    obtain ⟨ns, en⟩ := k.notices
    exact ⟨ms ++ ns, by rw [en, em, h.ptu, ntuAfter_ntuAfter]⟩
  others l hl := (k.others l hl).trans (h.others l hl)
  lines l r e := (k.lines l r e).elim (h.lines l r) fun m => .inr (h.refs ▸ m)
  quiet off := by
    obtain ⟨off', parks, pctl, ctp, amon, zos⟩ := h.quiet off
    obtain ⟨off'', parks', pctl', ctp', amon', zos'⟩ := k.quiet off'
    exact ⟨off'', parks'.trans parks, pctl'.trans pctl, ctp'.trans ctp, amon'.trans amon, zos'.trans zos⟩

theorem mono {ks : List LineNo} (h : Arbitrated ks s t) (sub : ∀ l ∈ ks, l ∈ ls) : Arbitrated ls s t :=
  { h with others := fun l hl => h.others l (mt (sub l) hl) }

theorem foldl {α : Type} {f : State → α → State} {xs : List α} (h : ∀ s, ∀ x ∈ xs, Arbitrated ls s (f s x)) (s : State) :
    Arbitrated ls s (xs.foldl f s) := by
  induction xs generalizing s with
  | nil => exact refl ls s
  | cons x xs ih => exact (h s x (by simp)).trans (ih (fun s y hy => h s y (by simp [hy])) _)

end Arbitrated

section Parts

variable (ls : List LineNo) (s : State)

theorem arbitrated_raiseNotice (n : Notice) : Arbitrated ls s (raiseNotice n s) := by
  rw [raiseNotice_ntuAfter]
  exact { Arbitrated.refl ls s with notices := ⟨[n], rfl⟩, quiet := fun off => ⟨fun g => (off g).of_groups rfl, rfl, rfl, rfl, rfl, rfl⟩ }

theorem arbitrated_modCall (r : CallRef) {f : CallRecord → CallRecord} (h : ∀ c, (f c).ref = c.ref) :
    Arbitrated ls s (modCall r f s) :=
  { Arbitrated.refl ls s with
    refs := by
      simp only [modCall, List.map_map]
      refine List.map_congr_left fun c _ => ?_
      show (if c.ref = r then f c else c).ref = c.ref
      split
      · exact h c
      · rfl
    quiet := fun off => ⟨fun g => (off g).of_groups rfl, rfl, rfl, rfl, rfl, rfl⟩ }

theorem arbitrated_setPointer (g : GroupNo) (i : MemberPos) :
    Arbitrated ls s (modGroup g (fun h => { h with huntPointer := i }) s) :=
  { Arbitrated.refl ls s with
    quiet := fun off => by
      refine ⟨fun x => ?_, rfl, rfl, rfl, rfl, rfl⟩
      by_cases e : x = g
      · exact ⟨by simp [modGroup, e, (off g).target], by simp [modGroup, e, (off g).off]⟩
      · exact (off x).of_groups (by simp [modGroup, e]) }

theorem arbitrated_reserve {l : LineNo} {r : CallRef} (hl : l ∈ ls) (known : r ∈ s.deng.calls.map (·.ref)) :
    Arbitrated ls s (modShadow l (fun x => { x with reservation := some r }) s) :=
  { Arbitrated.refl ls s with
    others := fun k hk => by simp [modShadow, ne_of_mem_of_not_mem hl hk |>.symm]
    lines := fun k q e => by
      by_cases hk : k = l
      · obtain rfl : r = q := by simpa [modShadow, hk] using e
        exact .inr known
      · exact .inl (by simpa [modShadow, hk] using e)
    quiet := fun off => ⟨fun g => (off g).of_groups rfl, rfl, rfl, rfl, rfl, rfl⟩ }

/-- A floor evaluation makes or ends a page, and changes no line (R46, R96, R97). -/
theorem arbitrated_evalFloor (g : GroupNo) : Arbitrated ls s (evalFloor g s) := by
  have quiet : (∀ g, FloorOff g s) → evalFloor g s = s := fun off => (off g).eval
  have paged : ∀ b, PageSteps (modGroup g (fun h => { h with floorCondition := b }) s) (evalFloor g s) →
      Arbitrated ls s (evalFloor g s) := fun b steps => by
    have calls : (evalFloor g s).deng.calls = s.deng.calls := by rw [steps.work.deng]; rfl
    have lmon : (evalFloor g s).lmon = s.lmon := steps.work.lmon
    exact
      { refs := by rw [calls]
        ptu := steps.work.ptu
        notices := steps.work.notices.imp fun _ h => h.2
        others := fun l _ => by rw [lmon]
        lines := fun l r e => .inl (lmon ▸ e)
        quiet := fun off => by rw [quiet off]; exact ⟨off, rfl, rfl, rfl, rfl, rfl⟩ }
  by_cases holds : FloorHolds g s.deng.calls (s.deng.groups.get g) <;>
    cases was : (s.deng.groups.get g).floorCondition
  · exact paged true (by rw [evalFloor_rises holds was]; exact pageSteps_startFloorPage g _)
  · rw [evalFloor_unchanged (by simp [holds, was])]
    exact .refl ls s
  · rw [evalFloor_unchanged (by simp [holds, was])]
    exact .refl ls s
  · exact paged false (by rw [evalFloor_falls holds was]; exact pageSteps_endFloorPage g _)

/-- A call that is about to be offered leaves its queue (R39). -/
theorem arbitrated_unqueued (r : CallRef) (g : GroupNo) : Arbitrated ls s (offerCall r g [] s) := by
  have state := arbitrated_modCall ls s r (f := fun c => { c with state := if c.ringing = [] then .offered else .ringing })
    fun _ => rfl
  unfold offerCall
  dsimp only [List.foldl_nil]
  split
  · split
    · exact state.trans (arbitrated_evalFloor ls _ g)
    · exact state
  · exact state

end Parts

/-- An offer reserves the position's line for its call (R28, R29). -/
theorem arbitrated_placeOffer {r : CallRef} {g : GroupNo} {i : MemberPos} {ls : List LineNo} {s : State}
    (known : r ∈ s.deng.calls.map (·.ref)) (line : ((s.deng.groups.get g).members.get i).line ∈ ls) :
    Arbitrated ls s (placeOffer r g s i) := by
  unfold placeOffer
  dsimp only
  refine Arbitrated.trans ?_ (arbitrated_raiseNotice ls _ _)
  have reserved := arbitrated_reserve ls s line known
  split
  · exact (reserved.trans (arbitrated_modCall ls _ r (by intro _; rfl))).trans (arbitrated_setPointer ls _ g i)
  · exact reserved.trans (arbitrated_modCall ls _ r (by intro _; rfl))

/-- A line offered to a call in use (R39, R41). -/
theorem arbitrated_offerLine {l : LineNo} {c : CallRecord} {s : State} (known : c ∈ s.deng.calls) :
    Arbitrated [l] s (offerLine l c s) := by
  unfold offerLine
  split
  · next h _ =>
    split
    · next i position =>
      have line : (((offerCall c.ref h.group [] s).deng.groups.get h.group).members.get i).line = l := by
        rw [membersKept_offerCall c.ref h.group [] s h.group]
        exact (posOf_eq_some.mp position).2
      have unqueued := arbitrated_unqueued [l] s c.ref h.group
      have ref : c.ref ∈ (offerCall c.ref h.group [] s).deng.calls.map (·.ref) :=
        unqueued.refs ▸ List.mem_map_of_mem (f := fun d : CallRecord => d.ref) known
      exact unqueued.trans (arbitrated_placeOffer ref (by simp [line]))
    · exact .refl _ s
  · exact .refl _ s

theorem arbitrated_arbitrate (l : LineNo) (s : State) : Arbitrated [l] s (arbitrate l s) := by
  unfold arbitrate
  split
  · next c first =>
    refine arbitrated_offerLine ?_
    have queued := List.mem_of_mem_head? first
    rw [(byPriority_perm _).mem_iff] at queued
    exact List.mem_of_mem_filter queued
  · split
    · next c joins => exact arbitrated_offerLine (List.mem_of_find?_eq_some joins)
    · exact .refl _ s

theorem arbitrated_arbitrateAll (ls : List LineNo) (s : State) : Arbitrated ls s (arbitrateAll ls s) :=
  .foldl (fun s l hl => (arbitrated_arbitrate l s).mono (by simpa using hl)) s

/-! ### Notices already raised stay (R165) -/

theorem ntuAfter_keeps (ns : List Notice) (p : Ptu) (q : Ntu) :
    q.queue <+: (ntuAfter ns p q).queue ∧ q.drops ≤ (ntuAfter ns p q).drops := by
  have one : ∀ (n : Notice) (q : Ntu), q.queue <+: (ntuAfter [n] p q).queue ∧ q.drops ≤ (ntuAfter [n] p q).drops := fun n q => by
    show _ <+: (raiseNotice n _).ntu.queue ∧ _ ≤ (raiseNotice n _).ntu.drops
    unfold raiseNotice
    split
    · split
      · refine ⟨List.prefix_rfl, ?_⟩
        dsimp only
        split <;> omega
      · exact ⟨List.prefix_append _ _, le_rfl⟩
    · exact ⟨List.prefix_rfl, le_rfl⟩
  induction ns generalizing q with
  | nil => exact ⟨List.prefix_rfl, le_rfl⟩
  | cons n ns ih =>
    rw [ntuAfter_cons]
    exact ⟨(one n q).1.trans (ih _).1, (one n q).2.trans (ih _).2⟩

/-! ### A call that is claimed (R9, R58) -/

/-- The floor condition of a call's group evaluated; a DIRECT record has no group (R9, R46). -/
def floorEvaluated (c : CallRecord) (s : State) : State :=
  match c.hunt with
  | some h => evalFloor h.group s
  | none => s

theorem arbitrated_floorEvaluated (ls : List LineNo) (c : CallRecord) (s : State) : Arbitrated ls s (floorEvaluated c s) := by
  unfold floorEvaluated
  split
  · exact arbitrated_evalFloor ls s _
  · exact .refl ls s

theorem floorEvaluated_off {c : CallRecord} {s : State} (off : ∀ h, c.hunt = some h → FloorOff h.group s) :
    floorEvaluated c s = s := by
  unfold floorEvaluated
  split
  · next h hh => exact (off h hh).eval
  · rfl

section Freed

variable {why : WithdrawReason} {c : CallRecord} {s : State}

/-- The call's record and reservations gone, what is left of its freeing is the evaluation of its group's floor condition and the
arbitration of its lines. -/
theorem freeCall_withdrawn (hc : findCall c.ref s = some c) : freeCall c.ref (raiseWithdrawals why c s) =
    arbitrateAll (reservedLines c) (floorEvaluated c (freed why c s)) := by
  have found : findCall c.ref (raiseAll (withdrawals why c) s) = some c := by simpa [findCall] using hc
  have gone : removeCall c.ref (clearReservations (reservedLines c) (raiseAll (withdrawals why c) s)) = freed why c s := by
    simp [clearReservations_eq, freed, reservedLines]
  simp only [freeCall, raiseWithdrawals_eq, found, gone]
  rfl

theorem arbitrated_freeCall (hc : findCall c.ref s = some c) :
    Arbitrated (reservedLines c) (freed why c s) (freeCall c.ref (raiseWithdrawals why c s)) := by
  rw [freeCall_withdrawn hc]
  exact (arbitrated_floorEvaluated _ c _).trans (arbitrated_arbitrateAll _ _)

/-- A freeing that starts nothing else (R9). -/
theorem freeCall_alone (hc : findCall c.ref s = some c) (alone : FreesAlone c s) :
    freeCall c.ref (raiseWithdrawals why c s) = freed why c s := by
  have still : floorEvaluated c (freed why c s) = freed why c s :=
    floorEvaluated_off fun h hh => (alone.floor h hh).of_groups rfl
  rw [freeCall_withdrawn hc, still]
  obtain bare | others := alone.lines
  · rw [reservedLines, bare]
    rfl
  · refine arbitrateAll_of_no_claims fun l _ d hd => claims_of_direct ?_
    obtain ⟨mem, ne⟩ : d ∈ s.deng.calls ∧ d.ref ≠ c.ref := by simpa [freed] using hd
    exact others d mem ne

/-- The record of a freed call is gone, and with it the last use of its reference. -/
theorem freed_refs (c : CallRecord) (s : State) : c.ref ∉ (freed why c s).deng.calls.map (·.ref) := by
  simp [freed]

theorem freed_reservation (l : LineNo) : ((freed why c s).lmon.shadows.get l).reservation =
    if l ∈ reservedLines c then none else (s.lmon.shadows.get l).reservation := by
  rw [freed, outcome_shadow]
  rfl

theorem freed_ntu : (freed why c s).ntu = (raiseAll (withdrawals why c) s).ntu := by
  rw [freed, outcome_eq, raiseAll_ntuAfter]

/-- A call in use that is withdrawn and freed was freed as R9 says. -/
theorem callFreed_freeCall (hc : findCall c.ref s = some c) : CallFreed why c s (freeCall c.ref (raiseWithdrawals why c s)) := by
  have arbitrated := arbitrated_freeCall (why := why) hc
  have moved : Moves s (freeCall c.ref (raiseWithdrawals why c s)) := (moves_raiseWithdrawals why c s).trans (moves_freeCall c.ref _)
  obtain ⟨ns, raised⟩ := arbitrated.notices
  have kept := ntuAfter_keeps ns (freed why c s).ptu (freed why c s).ntu
  rw [← raised, freed_ntu] at kept
  exact
    { gone := findCall_eq_none.mpr fun d hd e =>
        freed_refs c s (arbitrated.refs ▸ e ▸ List.mem_map_of_mem (f := fun d : CallRecord => d.ref) hd)
      withdrawn := kept.1
      dropped := kept.2
      left := fun x hx e => by
        have line : x.line ∈ reservedLines c := List.mem_map_of_mem hx
        obtain old | known := arbitrated.lines x.line c.ref e
        · rw [freed_reservation, if_pos line] at old
          cases old
        · exact freed_refs c s known
      others := fun l hl => by
        have other : l ∉ reservedLines c := fun h => by
          obtain ⟨x, hx, e⟩ := List.mem_map.mp h
          exact hl x hx e
        rw [arbitrated.others l other, freed_reservation, if_neg other]
      inputs := Moves.sameInputs moved
      ptu := (Moves.fixed moved).2.1 }

end Freed

/-! ### GROUP_PICKUP and DIRECTED_PICKUP (R52 to R58) -/

theorem exec_groupPickup {n : SlotNo} {s : State} (h : Served 0x07 n s) :
    exec .groupPickup s = .next (finishSlot n (groupPickup (s.rqu.slots.get n).snapshot (pointed n s)).2
      (groupPickup (s.rqu.slots.get n).snapshot (pointed n s)).1) :=
  congrArg Host.Outcome.next (command_of_served h groupPickup)

theorem exec_directedPickup {n : SlotNo} {s : State} (h : Served 0x08 n s) :
    exec .directedPickup s = .next (finishSlot n (directedPickup (s.rqu.slots.get n).snapshot (pointed n s)).2
      (directedPickup (s.rqu.slots.get n).snapshot (pointed n s)).1) :=
  congrArg Host.Outcome.next (command_of_served h directedPickup)

/-- What a command that claims a call leaves (R56, R58). -/
structure Claimed (n : SlotNo) (c : CallRecord) (reply : Reply) (s t : State) : Prop where
  freed : CallFreed .picked c s t
  quiet : (∀ g, FloorOff g s) → t.deng.parks = s.deng.parks ∧ t.pctl = s.pctl ∧ t.ctp = s.ctp ∧ t.amon = s.amon ∧ t.zos = s.zos
  rqu : t.rqu = (finishSlot n reply (pointed n s)).rqu
  alone : FreesAlone c s → t = finishSlot n reply (Machine.freed .picked c (pointed n s))

theorem claimed_claim (n : SlotNo) {c : CallRecord} (reply : Reply) {s : State} (hc : findCall c.ref s = some c) :
    Claimed n c reply s (finishSlot n reply (claim c (pointed n s))) := by
  have found : findCall c.ref (pointed n s) = some c := hc
  have callFreed := callFreed_freeCall (why := .picked) found
  have notices : (raiseAll (withdrawals .picked c) (pointed n s)).ntu = (raiseAll (withdrawals .picked c) s).ntu := by
    simp only [raiseAll_ntuAfter, pointed_ptu, pointed_ntu]
  have rqu : (claim c (pointed n s)).rqu = (pointed n s).rqu := (Moves.fixed (moves_claim c (pointed n s))).2.2
  exact
    { freed :=
        { callFreed with
          withdrawn := notices ▸ callFreed.withdrawn
          dropped := notices ▸ callFreed.dropped
          inputs := { callFreed.inputs with } }
      quiet := fun off => by
        obtain ⟨-, kept⟩ := (arbitrated_freeCall (why := .picked) found).quiet fun g => (off g).of_groups rfl
        simp only [Machine.freed, outcome_parks, outcome_pctl, outcome_ctp, outcome_amon, outcome_zos] at kept
        exact kept
      rqu := by simp only [finishSlot, modSlot, rqu]
      alone := fun h => congrArg (finishSlot n reply) (freeCall_alone found ⟨h.lines, fun k hk => (h.floor k hk).of_groups rfl⟩) }

/-- GROUP_PICKUP takes the first candidate of the Presentation Order (R56). -/
theorem groupPickup_first {p : Params} {r : LineNo} {before after : List CallRecord} {c : CallRecord} {s : State}
    (hr : bits p.p0 0 16 = r.val) (member : (s.lmon.shadows.get r).pickup ≠ 0) (calls : s.deng.calls = before ++ c :: after)
    (ahead : ∀ b ∈ before, ¬ RingsInReach r b s ∧ ¬ QueuesInReach r b s) (candidate : RingsInReach r c s ∨ QueuesInReach r c s) :
    groupPickup p s = (claim c s, pickupReply c) := by
  have takes : ∀ d, (ringingCandidate r s d || queuedCandidate r s d) = true ↔ RingsInReach r d s ∨ QueuesInReach r d s := fun d => by
    rw [Bool.or_eq_true, ringingCandidate_iff, queuedCandidate_iff]
  have first : s.deng.calls.find? (fun d => ringingCandidate r s d || queuedCandidate r s d) = some c := by
    rw [calls]
    exact find?_behind (fun b hb => by rw [← Bool.not_eq_true, takes, not_or]; exact ahead b hb) ((takes c).mpr candidate)
  have outside : ¬ pickupOf r s = 0 := member
  simp only [groupPickup, hr, lineParam_val, outside, if_false, first]

/-- A call that DIRECTED_PICKUP may not take from its own line (R57). -/
theorem ownCall_iff (r : LineNo) (c : CallRecord) (s : State) : ownCall r c s = true ↔ (∃ e ∈ c.ringing, e.line = r)
    ∨ (s.lmon.shadows.get r).state = .ringing c.ref ∨ (s.lmon.shadows.get r).reservation = some c.ref ∨ callerOf c = some r := by
  simp only [ownCall, Bool.or_eq_true, List.any_eq_true, decide_eq_true_eq, or_assoc]

/-- A requester may pick up at a line by DIRECTED_ANY, or where it reaches the line's pickup group (R52, R57). -/
theorem mayPickUp_iff (r k : LineNo) (s : State) :
    ((s.lmon.shadows.get r).directedAny || inReach (pickupOf r s) (pickupOf k s) s) = true
      ↔ (s.lmon.shadows.get r).directedAny = true ∨ Reaches r (s.lmon.shadows.get k).pickup s := by
  rw [Bool.or_eq_true, inReach_iff]
  rfl

section Directed

variable {p : Params} {r k : LineNo} {c : CallRecord} {s : State}

theorem directedPickup_silent (hr : bits p.p0 0 16 = r.val) (hk : bits p.p1 0 16 = k.val) (silent : ringingCall k s = none) :
    directedPickup p s = (s, Reply.bare .nothing) := by
  simp only [directedPickup, hr, hk, lineParam_val, silent]

variable (hr : bits p.p0 0 16 = r.val) (hk : bits p.p1 0 16 = k.val) (rings : ringingCall k s = some c)

include hr hk rings

theorem directedPickup_own (own : k = r ∨ ownCall r c s = true) : directedPickup p s = (s, Reply.bare .nothing) := by
  simp only [directedPickup, hr, hk, lineParam_val, rings, own, if_true]

theorem directedPickup_barred (other : ¬ (k = r ∨ ownCall r c s = true)) (barred : (s.lmon.shadows.get k).noPickupFrom = true) :
    directedPickup p s = (s, Reply.bare .notPermitted) := by
  simp only [directedPickup, hr, hk, lineParam_val, rings, other, barred, if_false, if_true]

theorem directedPickup_claims (other : ¬ (k = r ∨ ownCall r c s = true)) (unbarred : ¬ (s.lmon.shadows.get k).noPickupFrom = true)
    (may : (s.lmon.shadows.get r).directedAny = true ∨ Reaches r (s.lmon.shadows.get k).pickup s) :
    directedPickup p s = (claim c s, ⟨.ok, packed [(c.ref.toNat, 0), (1, 16)], packed [(k.val, 0)]⟩) := by
  simp only [directedPickup, hr, hk, lineParam_val, rings, other, unbarred, (mayPickUp_iff r k s).mpr may,
    Bool.false_eq_true, if_false, if_true]

theorem directedPickup_unreached (other : ¬ (k = r ∨ ownCall r c s = true)) (unbarred : ¬ (s.lmon.shadows.get k).noPickupFrom = true)
    (mayNot : ¬ ((s.lmon.shadows.get r).directedAny = true ∨ Reaches r (s.lmon.shadows.get k).pickup s)) :
    directedPickup p s = (s, Reply.bare .notPermitted) := by
  simp only [directedPickup, hr, hk, lineParam_val, rings, other, unbarred, mt (mayPickUp_iff r k s).mp mayNot,
    Bool.false_eq_true, if_false]

end Directed

/-- Settles O42: the first candidate, or the call that rings at the target where the rules allow it, is claimed. -/
theorem pickupsClaim : Obligations.PickupsClaim := by
  intro n s r hr claimed
  have claims : ∀ (c : CallRecord) (reply : Reply), c ∈ s.deng.calls → referencesSound s →
      claimed c (finishSlot n reply (claim c (pointed n s))) reply := fun c reply mem sound => by
    have distinct : DistinctRefs s := (List.nodup_append.mp sound.2).1
    obtain ⟨freed, quiet, rqu, alone⟩ := claimed_claim n reply (distinct.found mem)
    exact ⟨freed, quiet, rqu, alone⟩
  refine ⟨fun hs member sound before after c calls ahead => ?_, fun k hs hk => ?_⟩
  · have mem : c ∈ s.deng.calls := by simp [calls]
    have taken : ∀ reply, pickupReply c = reply → RingsInReach r c s ∨ QueuesInReach r c s →
        ∃ t, exec .groupPickup s = .next t ∧ claimed c t reply := fun reply answer candidate => by
      refine ⟨_, ?_, claims c reply mem sound⟩
      rw [exec_groupPickup hs, groupPickup_first (s := pointed n s) hr member calls ahead candidate, answer]
    refine ⟨fun rings e es ringing => taken _ ?_ (.inl rings), fun h queues hunt => taken _ ?_ (.inr queues)⟩
    · simp only [pickupReply, rings.1, ringing]
    · simp only [pickupReply, queues.1, hunt]
  · intro nothing refused sr sk
    refine ⟨fun silent => ?_, fun c rings => ?_⟩
    · rw [exec_directedPickup hs, directedPickup_silent (s := pointed n s) hr hk silent]
      rfl
    have own : k = r ∨ ownCall r c (pointed n s) = true ↔ _ := or_congr_right (ownCall_iff r c (pointed n s))
    rw [exec_directedPickup hs]
    split
    · next h =>
      rw [directedPickup_own (s := pointed n s) hr hk rings (own.mpr h)]
      rfl
    next notOwn =>
    have other := mt own.mp notOwn
    split
    · next barred =>
      rw [directedPickup_barred (s := pointed n s) hr hk rings other barred]
      rfl
    next unbarred =>
    split
    · next may =>
      intro sound
      rw [directedPickup_claims (s := pointed n s) hr hk rings other unbarred may]
      exact ⟨_, rfl, claims c _ (List.mem_of_find?_eq_some rings) sound⟩
    · next mayNot =>
      rw [directedPickup_unreached (s := pointed n s) hr hk rings other unbarred mayNot]
      rfl

end Sys2Proof.Machine
end

section
namespace Sys2Proof.Machine

/-! ### A page's source and preamble start (R88, R89, R102, R110, R114) -/

/-- What a tone source is started for (R110). -/
def sourceUse (o : PageOrigin) : ToneUse :=
  match o with
  | .group _ => .floorRing
  | _ => .source

/-- The state with a page's source playing from its beginning (R89). -/
def sourceStarted (p : PageNo) (r : PageRec) (s : State) : State :=
  match r.source with
  | .live k => modContext p (fun x => { x with playing := .live k }) s
  | .clip c => startClip p c s
  | .tone t => startTone p (sourceUse r.origin) t s

/-- The record of a page that enters ACTIVE (R89). -/
def activeRec (r : PageRec) (s : State) : PageRec :=
  { r with
    state := .active, wasActive := true
    maxAt := if r.maxDuration = 0 then none else some (s.ptu.clock + 1000 * r.maxDuration) }

/-- A page whose TONE source is not empty enters ACTIVE and leaves nothing to do (R89, R110). -/
theorem enterActive_eq {p : PageNo} {r : PageRec} {s : State} (page : s.pctl.pages.get p = some r)
    (sounds : ∀ t, r.source = .tone t → patternEmpty t s = false) :
    enterActive p s = (sourceStarted p r (pageNotice p r .active none (putPage p (some (activeRec r s)) s)), []) := by
  have entered : modPage p (fun r => { r with
        state := .active, wasActive := true
        maxAt := if r.maxDuration = 0 then none else some (after (1000 * r.maxDuration) s) }) s
      = putPage p (some (activeRec r s)) s := by
    rw [modPage, modAt_eq_putAt, page]
    rfl
  rw [enterActive, page]
  simp only [entered]
  generalize fields : pageNotice p r .active none (putPage p (some (activeRec r s)) s) = u
  have patterns : ∀ t, patternEmpty t u = patternEmpty t s := fun t => by
    rw [← fields, pageNotice, raiseNotice_ntuAfter]
    rfl
  cases source : r.source with
  | live k => simp only [sourceStarted, source]
  | clip c => simp only [sourceStarted, source]
  | tone t =>
    have sound : patternEmpty t u = false := (patterns t).trans (sounds t source)
    cases origin : r.origin <;> simp [sourceStarted, source, origin, sourceUse, sound]

/-- A page's player changes its own context's play and its own fetch, and nothing else. -/
structure PlayerOnly (p : PageNo) (s t : State) : Prop where
  state : t = { s with ctp := { s.ctp with contexts := t.ctp.contexts, fetches := t.ctp.fetches } }
  others : ∀ q, q ≠ p → t.ctp.contexts.get q = s.ctp.contexts.get q ∧ t.ctp.fetches.get q = s.ctp.fetches.get q
  entry : (t.ctp.contexts.get p).entry = (s.ctp.contexts.get p).entry

theorem PlayerOnly.trans {p : PageNo} {s t u : State} (h : PlayerOnly p s t) (k : PlayerOnly p t u) : PlayerOnly p s u where
  state := by rw [k.state, h.state]
  others q ne := ⟨((k.others q ne).1).trans (h.others q ne).1, ((k.others q ne).2).trans (h.others q ne).2⟩
  entry := k.entry.trans h.entry

theorem playerOnly_play (p : PageNo) (x : Playing) (s : State) : PlayerOnly p s (modContext p (fun y => { y with playing := x }) s) :=
  ⟨rfl, fun q ne => ⟨by simp [modContext, ne], rfl⟩, by simp [modContext]⟩

/-- A clip starts with its block 0 asked for, where no fetch of the page's number is outstanding (R102). -/
theorem startClip_eq {p : PageNo} {c : ClipNo} {s : State} (none : s.ctp.fetches.get p = none) :
    startClip p c s = putFetch p (some ⟨false, 0, (s.ctp.contexts.get p).entry.addr, 0, [], false⟩)
      (modContext p (fun x => { x with playing := .clip { freshClip c with bufA := .awaiting 0 } }) s) := by
  have fetches : (modContext p (fun x => { x with playing := .clip (freshClip c) }) s).ctp.fetches.get p = .none := none
  rw [startClip, requestFetch, fetches]
  simp [modContext, freshClip, emptyBuffer, putBuffer, modAt_modAt]

theorem playerOnly_startClip (p : PageNo) (c : ClipNo) (s : State) : PlayerOnly p s (startClip p c s) := by
  cases outstanding : s.ctp.fetches.get p with
  | none =>
    rw [startClip_eq outstanding]
    exact (playerOnly_play p _ s).trans ⟨rfl, fun q ne => ⟨rfl, by simp [putFetch, ne]⟩, rfl⟩
  | some f =>
    have fetches : (modContext p (fun x => { x with playing := .clip (freshClip c) }) s).ctp.fetches.get p = some f := outstanding
    have waits : startClip p c s = modContext p (fun x => { x with playing := .clip (freshClip c) }) s := by
      rw [startClip, requestFetch, fetches]
      split <;> simp_all
    rw [waits]
    exact playerOnly_play p _ s

theorem playerOnly_sourceStarted (p : PageNo) (r : PageRec) (s : State) : PlayerOnly p s (sourceStarted p r s) := by
  unfold sourceStarted
  split
  · exact playerOnly_play p _ s
  · exact playerOnly_startClip p _ s
  · exact playerOnly_play p _ s

end Sys2Proof.Machine
end

section
namespace Sys2Proof.Machine

/-! ### A sample goes to the zones a page holds (R111, R144) -/

/-- A zone's output stage once a sample was put into the FIFOs of some zones. -/
def fed (v : Sample) (zs : List ZoneNo) (s : State) (z : ZoneNo) : ZosZone :=
  if z ∈ zs ∧ (s.zos.zones.get z).fifo.length < Config.fifoDepth then
    { s.zos.zones.get z with fifo := (s.zos.zones.get z).fifo ++ [v] }
  else s.zos.zones.get z

theorem pushSample_zone (v : Sample) (z : ZoneNo) (s : State) (y : ZoneNo) :
    (pushSample v z s).zos.zones.get y = fed v [z] s y := by
  by_cases e : y = z
  · by_cases room : (s.zos.zones.get z).fifo.length < Config.fifoDepth <;> simp [pushSample, modZos, fed, e, room]
  · simp [pushSample, modZos, fed, e]

theorem foldl_pushSample {v : Sample} {zs : List ZoneNo} (distinct : zs.Nodup) (s : State) :
    zs.foldl (fun s z => pushSample v z s) s = { s with zos := { s.zos with zones := Vector.ofFn (fed v zs s) } } := by
  induction zs generalizing s with
  | nil =>
    have same : Vector.ofFn (fed v [] s) = s.zos.zones := vector_ext_get fun y => by simp [fed]
    rw [same]
    rfl
  | cons z zs ih =>
    obtain ⟨hz, distinct⟩ := List.nodup_cons.mp distinct
    have zones : Vector.ofFn (fed v zs (pushSample v z s)) = Vector.ofFn (fed v (z :: zs) s) := vector_ext_get fun y => by
      rw [get_ofFn, get_ofFn, fed, pushSample_zone]
      by_cases e : y = z
      · simp [fed, e, hz]
      · simp [fed, e]
    rw [List.foldl_cons, ih distinct, zones]
    rfl

theorem deliver_eq (p : PageNo) (v : Sample) (s : State) : deliver p v s = { s with
    ctp := { s.ctp with contexts := putAt s.ctp.contexts p { s.ctp.contexts.get p with frameDue := false } }
    zos := { s.zos with zones := Vector.ofFn (fed v (heldZones p s) s) } } := by
  rw [deliver, heldZones_congr (s := s) rfl, foldl_pushSample (heldZones_nodup p s)]
  rfl

/-- A sample was delivered, and the page's context plays something else from then on. -/
theorem delivered_play (p : PageNo) (v : Sample) (x : Playing) (s : State) :
    Delivered p v x s (modContext p (fun y => { y with playing := x }) (deliver p v s)) := by
  rw [deliver_eq]
  refine ⟨?_, fun z => get_ofFn _ z⟩
  simp [modContext, modAt_eq_putAt, putAt_putAt]

/-- A sample was delivered, and the page's context plays what it played. -/
theorem delivered_deliver {p : PageNo} {x : Playing} {s : State} (playing : (s.ctp.contexts.get p).playing = x) (v : Sample) :
    Delivered p v x s (deliver p v s) := by
  rw [deliver_eq, ← playing]
  exact ⟨rfl, fun z => get_ofFn _ z⟩

/-- A stopped context without a fetch is idle. -/
theorem stopContext_deliver {p : PageNo} {s : State} (fetch : s.ctp.fetches.get p = none) (v : Sample) :
    stopContext p (deliver p v s) = modContext p (fun y => { y with playing := .idle }) (deliver p v s) := by
  have fetches : putAt s.ctp.fetches p ((s.ctp.fetches.get p).map fun f => { f with stale := true }) = s.ctp.fetches := by
    have same := putAt_self s.ctp.fetches p
    rwa [fetch] at same ⊢
  simp [deliver_eq, stopContext, putFetch, modContext, modAt_eq_putAt, fetches, putAt_putAt]

/-- The pace of a context's production (R111). -/
theorem mayProduce_iff (p : PageNo) (s : State) : mayProduce p s = true ↔ Paced p s := by
  have on : ∀ z, ((∃ h, s.pctl.holders.get z = some h ∧ h.page = p) ∧ s.zos.linkNow.getLsbD (z.val / 8) = true)
      ↔ z ∈ heldZones p s ∧ linkOn z s = true := fun z => and_congr_left fun _ => mem_heldZones.symm
  have none : feedsNone p s = true ↔ ¬ ∃ z, z ∈ heldZones p s ∧ linkOn z s = true := by
    simp [feedsNone]
  simp only [Paced, on]
  by_cases feeds : ∃ z, z ∈ heldZones p s ∧ linkOn z s = true
  · have some : ¬ feedsNone p s = true := fun h => none.mp h feeds
    rw [mayProduce, if_neg some, if_pos feeds]
    simp only [List.all_eq_true, Bool.or_eq_true, Bool.not_eq_true', decide_eq_true_eq]
    refine forall_congr' fun z => ?_
    cases linkOn z s <;> simp [Config.fifoDepth]
  · rw [mayProduce, if_pos (none.mpr feeds), if_neg feeds]

end Sys2Proof.Machine
end

section
namespace Sys2Proof.Machine

/-! ### A tone context's sample (R108 to R110) -/

section Tone

variable {p : PageNo} {c : ToneCtx} {s : State}

theorem exec_sampleProduce (paced : Paced p s) (playing : (s.ctp.contexts.get p).playing = .tone c) :
    exec (.sampleProduce p) s = .next (settle (toneAdvance p c (deliver p (toneNext c) s)).2
      (toneAdvance p c (deliver p (toneNext c) s)).1) := by
  show execSampleProduce p s = _
  rw [execSampleProduce, if_pos ((mayProduce_iff p s).mpr paced), produce, playing]

theorem exec_sampleProduce_unpaced (unpaced : ¬ Paced p s) : exec (.sampleProduce p) s = .next s :=
  if_neg (mt (mayProduce_iff p s).mp unpaced)

/-- A step that leaves PCTL nothing to do is the whole of the event. -/
theorem settle_nil (s : State) : settle [] s = s := rfl

theorem stepAfter_next {t : TonePattern} {k j : Fin 8} (next : j.val = k.val + 1) (plays : (t.steps.get j).duration ≠ 0)
    (first : (t.steps.get 0).duration ≠ 0) : stepAfter t k = some j := by
  have room : k.val + 1 < 8 := by omega
  obtain rfl : j = ⟨k.val + 1, room⟩ := Fin.ext next
  rw [stepAfter, dif_pos room, if_neg (not_or.mpr ⟨plays, first⟩)]

theorem stepAfter_last {t : TonePattern} {k : Fin 8}
    (last : k = 7 ∨ (∃ j : Fin 8, j.val = k.val + 1 ∧ (t.steps.get j).duration = 0) ∨ (t.steps.get 0).duration = 0) :
    stepAfter t k = none := by
  unfold stepAfter
  split
  · next room =>
    obtain rfl | ⟨j, next, silent⟩ | empty := last
    · exact absurd room (by decide)
    · obtain rfl : j = ⟨k.val + 1, room⟩ := Fin.ext next
      rw [if_pos (.inl silent)]
    · rw [if_pos (.inr empty)]
  · rfl

/-- The context after one sample of a step (R108). -/
def toneStepped (c : ToneCtx) : ToneCtx := { c with phase := nextPhase c.current c.phase, left := c.left - 1 }

theorem toneAdvance_silent (silent : c.silent = true) : toneAdvance p c s = (s, []) := by
  simp only [toneAdvance, silent, if_true]

theorem toneAdvance_within (sounds : c.silent = false) (more : 1 < c.left) :
    toneAdvance p c s = (modContext p (fun x => { x with playing := .tone (toneStepped c) }) s, []) := by
  simp [toneAdvance, sounds, more, toneStepped]

theorem toneAdvance_next {k : Fin 8} (sounds : c.silent = false) (spent : ¬ 1 < c.left)
    (next : stepAfter (s.ctp.patterns.get c.pattern) c.step = some k) :
    toneAdvance p c s = (modContext p (fun x => { x with playing := .tone (toneStepTo (toneStepped c) k s) }) s, []) := by
  simp only [toneAdvance, sounds, spent, next, Bool.false_eq_true, if_false, toneStepped]

theorem toneAdvance_end (sounds : c.silent = false) (spent : ¬ 1 < c.left)
    (last : stepAfter (s.ctp.patterns.get c.pattern) c.step = none) :
    toneAdvance p c s = tonePassEnd p (toneStepped c) s := by
  simp only [toneAdvance, sounds, spent, last, Bool.false_eq_true, if_false, toneStepped]

/-- The end of a pass that another one follows (R110). -/
theorem tonePassEnd_again (repeats : c.use = .floorRing ∨ c.use = .source
      ∧ ((s.ctp.patterns.get c.pattern).repeats = 0 ∨ c.passes + 1 < (s.ctp.patterns.get c.pattern).repeats)
      ∧ patternEmpty c.pattern s = false) :
    tonePassEnd p c s = (modContext p (fun x => { x with playing := .tone (tonePass c.use c.pattern (c.passes + 1) s) }) s, []) := by
  obtain ring | ⟨source, more⟩ := repeats
  · simp only [tonePassEnd, ring]
  · simp only [tonePassEnd, source, more, and_self, if_true]

/-- The end of a source's last pass (R110). -/
theorem tonePassEnd_done (source : c.use = .source) (last : ¬ (((s.ctp.patterns.get c.pattern).repeats = 0
      ∨ c.passes + 1 < (s.ctp.patterns.get c.pattern).repeats) ∧ patternEmpty c.pattern s = false)) :
    tonePassEnd p c s = (stopContext p s, [.finish p .sourceDone]) := by
  simp only [tonePassEnd, source, if_neg last]

/-- The end of a preamble (R88): a page still in PREAMBLE enters ACTIVE. -/
theorem tonePassEnd_preamble {r : PageRec} (use : c.use = .preamble) (page : s.pctl.pages.get p = some r) :
    tonePassEnd p c s = if r.state = .preamble then enterActive p (stopContext p s) else (stopContext p s, []) := by
  simp only [tonePassEnd, use, page]

end Tone

end Sys2Proof.Machine
end

section
namespace Sys2Proof.Machine

/-! ### SAMPLE_PRODUCE of a tone context (R108 to R111) -/

section Tone

variable {p : PageNo} {c : ToneCtx} {s : State} (paced : Paced p s) (playing : (s.ctp.contexts.get p).playing = .tone c)

include paced playing

/-- A sample after which the context plays something and PCTL has nothing to do. -/
theorem sampleProduce_plays {x : Playing} (h : toneAdvance p c (deliver p (toneNext c) s)
      = (modContext p (fun y => { y with playing := x }) (deliver p (toneNext c) s), [])) :
    ∃ t, exec (.sampleProduce p) s = .next t ∧ Delivered p (toneNext c) x s t := by
  refine ⟨_, exec_sampleProduce paced playing, ?_⟩
  rw [h]
  exact delivered_play p _ x s

theorem sampleProduce_silent (silent : c.silent = true) :
    ∃ t, exec (.sampleProduce p) s = .next t ∧ Delivered p (toneNext c) (.tone c) s t := by
  refine ⟨_, exec_sampleProduce paced playing, ?_⟩
  rw [toneAdvance_silent silent]
  exact delivered_deliver playing _

variable (sounds : c.silent = false) (spent : ¬ 1 < c.left)
  (last : stepAfter (s.ctp.patterns.get c.pattern) c.step = none)

include sounds spent last

/-- The last sample of a source's last pass (R90, R110). -/
theorem sampleProduce_done (source : c.use = .source) (fetch : s.ctp.fetches.get p = none)
    (done : ¬ (((s.ctp.patterns.get c.pattern).repeats = 0 ∨ c.passes + 1 < (s.ctp.patterns.get c.pattern).repeats)
      ∧ patternEmpty c.pattern s = false)) :
    ∃ u, Delivered p (toneNext c) .idle s u ∧ exec (.sampleProduce p) s = .next (endPage p .sourceDone u) := by
  refine ⟨_, delivered_play p _ .idle s, ?_⟩
  rw [exec_sampleProduce paced playing, toneAdvance_end sounds spent (by rw [deliver_eq]; exact last),
    tonePassEnd_done (by exact source) (by rw [deliver_eq]; exact done), stopContext_deliver fetch]
  rfl

/-- The last sample of a preamble (R88). -/
theorem sampleProduce_preamble {r : PageRec} (use : c.use = .preamble) (page : s.pctl.pages.get p = some r)
    (fetch : s.ctp.fetches.get p = none) :
    let u := modContext p (fun y => { y with playing := .idle }) (deliver p (toneNext c) s)
    exec (.sampleProduce p) s = .next (if r.state = .preamble then settle (enterActive p u).2 (enterActive p u).1 else u) := by
  intro u
  rw [exec_sampleProduce paced playing, toneAdvance_end sounds spent (by rw [deliver_eq]; exact last),
    tonePassEnd_preamble (by exact use) (by rw [deliver_eq]; exact page), stopContext_deliver fetch]
  split <;> rfl

end Tone

/-- A delivery to a page that ends holding zones leaves it so. -/
theorem EndsHolding.delivered {p q : PageNo} {r : PageRec} {v : Sample} {x : Playing} {s u : State} (h : EndsHolding p r s)
    (d : Delivered q v x s u) : EndsHolding p r u := by
  obtain ⟨only, zones⟩ := d
  have pctl : u.pctl = s.pctl := by rw [only]
  have held : heldZones p u = heldZones p s := heldZones_congr (by rw [pctl])
  refine ⟨by rw [pctl]; exact h.page, h.unended, by rw [held]; exact h.holds, fun z hz => ?_, by rw [pctl]; exact h.only⟩
  have audible := h.audible z (held ▸ hz)
  rw [zones]
  split <;> exact audible

/-- A page that already has an end cause takes no other (R90). -/
theorem endPage_ended {p : PageNo} {r : PageRec} {s : State} (c : EndCause) (page : s.pctl.pages.get p = some r)
    (ended : r.endCause ≠ none) : endPage p c s = s := by
  have idle : pageTask (.finish p c) s = (s, []) := by
    simp [pageTask, takeEndCause, page, Option.isSome_iff_ne_none.mpr ended]
  exact (settle_one (by rw [idle])).trans (by rw [idle])

/-- What a page's context plays once its LIVE or TONE source starts (R89, R110). -/
def sourcePlay (r : PageRec) (s : State) : Playing :=
  match r.source with
  | .live k => .live k
  | .clip _ => .idle
  | .tone t => .tone (tonePass (sourceUse r.origin) t 0 s)

/-- A page whose preamble is over and whose source is no clip enters ACTIVE. -/
theorem enterActive_delivered {p : PageNo} {r : PageRec} {v : Sample} {s : State} (page : s.pctl.pages.get p = some r)
    (sounds : ∀ t, r.source = .tone t → patternEmpty t s = false) (unfetched : ∀ k, r.source ≠ .clip k) :
    enterActive p (modContext p (fun y => { y with playing := .idle }) (deliver p v s))
      = ({ raiseNotice (.pageState p .active none r.origin r.priority)
            (modContext p (fun y => { y with playing := sourcePlay r s }) (deliver p v s)) with
          pctl := { s.pctl with pages := putAt s.pctl.pages p (some (activeRec r s)) } }, []) := by
  rw [deliver_eq, enterActive_eq (by exact page) (by exact sounds)]
  simp only [pageNotice, raiseNotice_ntuAfter, putPage]
  cases source : r.source with
  | clip k => exact absurd source (unfetched k)
  | live k => simp only [sourceStarted, sourcePlay, source, modContext, modAt_modAt]; rfl
  | tone t => simp only [sourceStarted, sourcePlay, source, startTone, modContext, modAt_modAt]; rfl

end Sys2Proof.Machine
end

section
namespace Sys2Proof.Machine

theorem patternEmpty_eq_false {t : PatternNo} {s : State} :
    patternEmpty t s = false ↔ ((s.ctp.patterns.get t).steps.get 0).duration ≠ 0 := by simp [patternEmpty]

section Tone

variable {p : PageNo} {c : ToneCtx} {s : State} (paced : Paced p s) (playing : (s.ctp.contexts.get p).playing = .tone c)
  (sounds : c.silent = false) (spent : ¬ 1 < c.left) (last : stepAfter (s.ctp.patterns.get c.pattern) c.step = none)

include paced playing sounds spent last

/-- The last sample of a pass that another one follows (R110). -/
theorem sampleProduce_again (repeats : c.use = .floorRing ∨ c.use = .source
      ∧ ((s.ctp.patterns.get c.pattern).repeats = 0 ∨ c.passes + 1 < (s.ctp.patterns.get c.pattern).repeats)
      ∧ patternEmpty c.pattern s = false) :
    ∃ t, exec (.sampleProduce p) s = .next t
      ∧ Delivered p (toneNext c) (.tone (tonePass c.use c.pattern (c.passes + 1) s)) s t := by
  refine sampleProduce_plays paced playing ?_
  rw [toneAdvance_end sounds spent (by rw [deliver_eq]; exact last), tonePassEnd_again (by rw [deliver_eq]; exact repeats), deliver_eq]
  rfl

/-- The last sample of a preamble whose page has left PREAMBLE. -/
theorem sampleProduce_late {r : PageRec} (use : c.use = .preamble) (page : s.pctl.pages.get p = some r)
    (fetch : s.ctp.fetches.get p = none) (left : r.state ≠ .preamble) :
    ∃ t, exec (.sampleProduce p) s = .next t ∧ Delivered p (toneNext c) .idle s t := by
  refine ⟨_, sampleProduce_preamble paced playing sounds spent last use page fetch, ?_⟩
  rw [if_neg left]
  exact delivered_play p _ .idle s

/-- The last sample of a preamble takes its page to ACTIVE (R88, R89). -/
theorem sampleProduce_active {r : PageRec} (use : c.use = .preamble) (page : s.pctl.pages.get p = some r)
    (fetch : s.ctp.fetches.get p = none) (pre : r.state = .preamble)
    (full : ∀ t, r.source = .tone t → patternEmpty t s = false) (unfetched : ∀ k, r.source ≠ .clip k) :
    ∃ u, Delivered p (toneNext c) (sourcePlay r s) s u ∧ exec (.sampleProduce p) s = .next
      { raiseNotice (.pageState p .active none r.origin r.priority) u with
        pctl := { s.pctl with pages := putAt s.pctl.pages p (some (activeRec r s)) } } := by
  refine ⟨_, delivered_play p _ (sourcePlay r s) s, ?_⟩
  rw [sampleProduce_preamble paced playing sounds spent last use page fetch, if_pos pre,
    enterActive_delivered page full unfetched]
  rfl

end Tone

/-- Settles O52: the pace, then the sample by its place in the step, the pass and the source. -/
theorem toneProduces : Obligations.ToneProduces := by
  intro p s c playing n v sample c1 pattern pass gives
  have next : toneNext c = sample := by
    simp only [sample, toneNext, toneSample]
    by_cases silent : c.silent = true
    · rw [if_pos silent, if_pos (.inl silent)]
    · by_cases pause : c.current.frequency = 0 <;> simp [silent, pause, sampleOf, triangle, v, n]
  clear_value sample
  subst next
  refine ⟨exec_sampleProduce_unpaced, fun paced => ⟨sampleProduce_silent paced playing,
    fun sounds more => sampleProduce_plays paced playing (toneAdvance_within sounds more), ?_, ?_⟩⟩
  · intro k sounds spent hk plays first
    refine sampleProduce_plays paced playing ?_
    rw [toneAdvance_next sounds (by omega) (by rw [deliver_eq]; exact stepAfter_next hk plays first), deliver_eq]
    rfl
  · intro sounds done last again
    have spent : ¬ 1 < c.left := by omega
    have last := stepAfter_last last
    refine ⟨fun ring => ?_, fun source more => ?_, fun r page fetch => ⟨fun source done => ⟨fun ended => ?_, fun holding => ?_⟩,
      fun use => ⟨sampleProduce_late paced playing sounds spent last use page fetch, fun x pre plays => ?_⟩⟩⟩
    · exact ring ▸ sampleProduce_again paced playing sounds spent last (.inl ring)
    · exact source ▸ sampleProduce_again paced playing sounds spent last (.inr ⟨source, more.1, patternEmpty_eq_false.mpr more.2⟩)
    · obtain ⟨u, given, run⟩ := sampleProduce_done paced playing sounds spent last source fetch
        (mt (.imp_right patternEmpty_eq_false.mp) done)
      exact ⟨u, by rw [run, endPage_ended _ (by rw [given.1]; exact page) ended], given⟩
    · obtain ⟨u, given, run⟩ := sampleProduce_done paced playing sounds spent last source fetch
        (mt (.imp_right patternEmpty_eq_false.mp) done)
      exact ⟨u, _, run, given, endPage_released .sourceDone (holding.delivered given)⟩
    · obtain ⟨rfl, full, unfetched⟩ : x = sourcePlay r s ∧ (∀ t, r.source = .tone t → patternEmpty t s = false)
          ∧ ∀ k, r.source ≠ .clip k := by
        unfold sourcePlay
        cases source : r.source with
        | clip k => rw [source] at plays; exact plays.elim
        | live k => rw [source] at plays; exact ⟨plays, by simp, by simp⟩
        | tone t =>
          rw [source] at plays
          obtain ⟨owner, full, rfl⟩ := plays
          have use : sourceUse r.origin = .source := by
            unfold sourceUse
            split
            · next g own => exact absurd own (owner g)
            · rfl
          exact ⟨by rw [use]; rfl, by simp [patternEmpty_eq_false, full], by simp⟩
      exact sampleProduce_active paced playing sounds spent last use page fetch pre full unfetched

end Sys2Proof.Machine
end

section
namespace Sys2Proof.Machine

/-! ### What a change of holder does to a zone (R83, R84, R114, R124, R135, R137 to R139, R145) -/

/-- A zone's measurement context once a page takes the zone (R124). -/
def frozen (h : Holder) (a : AmonZone) : AmonZone :=
  if h.priority = .background then a else { a with freeze := .held, tainted := true }

theorem heldStage_frozen (h : Holder) (a : AmonZone) (x : ZosZone) (s : State) : heldStage h (frozen h a) x s = heldStage h a x s := by
  unfold frozen
  split <;> rfl

/-- A page takes a zone (R79): the four tables that say so. -/
theorem zoneTaken_eq (z : ZoneNo) (h : Holder) (s : State) : zoneTaken z h s = { s with
    pctl := { s.pctl with holders := putAt s.pctl.holders z (some h) }
    ctp := { s.ctp with overrun := putAt s.ctp.overrun z false }
    amon := putAt s.amon z (frozen h (s.amon.get z))
    zos := { s.zos with zones :=
      (putAt s.zos.zones z { heldStage h (s.amon.get z) (s.zos.zones.get z) s with fifo := [] }) } } := by
  have freeze : freezeTaken h.priority z (putOverrun z false (emptyFifo z (putHolder z (some h) s)))
      = { putOverrun z false (emptyFifo z (putHolder z (some h) s)) with amon := putAt s.amon z (frozen h (s.amon.get z)) } := by
    cases pr : h.priority
    case background => simp [freezeTaken, freezes, frozen, pr, putAt_self, putOverrun, emptyFifo, modZos, putHolder]
    all_goals simp [freezeTaken, freezes, frozen, pr, putOverrun, emptyFifo, modZos, putHolder, modAmon, modAt_eq_putAt]
  rw [zoneTaken, freeze, regain_eq]
  simp only [putOverrun, emptyFifo, putHolder, modZos, modAt_eq_putAt, get_putAt, if_true, putAt_putAt]
  rw [← heldStage_frozen h (s.amon.get z), ← regained_eq_heldStage]
  rfl

/-- A held zone is freed (R83). -/
theorem zoneFreed_eq {z : ZoneNo} {h : Holder} {s : State} (held : s.pctl.holders.get z = some h) : zoneFreed z s = zoneLeft z h s := by
  cases pr : h.priority
  case background => simp [zoneFreed, held, freezeFreed, freezes, pr, zoneLeft, thawed, putAt_self, modZos, modAt_eq_putAt, putOverrun, putHolder]
  all_goals simp [zoneFreed, held, freezeFreed, freezes, pr, zoneLeft, thawed, modZos, modAt_eq_putAt, putOverrun, putHolder, modAmon, after]

/-- A held zone whose letting-go flag is set or cleared (R84). -/
theorem zoneLetting_eq {z : ZoneNo} {h : Holder} {s : State} (b : Bool) (held : s.pctl.holders.get z = some h) :
    zoneLetting b z s = { s with
      pctl := { s.pctl with holders := putAt s.pctl.holders z (some { h with lettingGo := b }) }
      zos := { s.zos with zones :=
        (putAt s.zos.zones z (heldStage { h with lettingGo := b } (s.amon.get z) (s.zos.zones.get z) s)) } } := by
  rw [zoneLetting, held]
  simp only [regain_eq, putHolder, modZos, modAt_eq_putAt, get_putAt, if_true, regained_eq_heldStage]

theorem zoneTaken_zone (z : ZoneNo) (h : Holder) (s : State) : ZoneTaken z h s (zoneTaken z h s) := by
  rw [zoneTaken_eq]
  exact ⟨by simp, by simp, by simp [frozen]⟩

theorem zoneTaken_zones_other {y z : ZoneNo} (ne : y ≠ z) (h : Holder) (s : State) :
    (zoneTaken z h s).zos.zones.get y = s.zos.zones.get y := by
  rw [zoneTaken_eq]
  simp [ne]

theorem zoneLetting_zones_kept {y z : ZoneNo} (ne : y ≠ z) (b : Bool) (s : State) :
    (zoneLetting b z s).zos.zones.get y = s.zos.zones.get y := by
  cases held : s.pctl.holders.get z with
  | none => simp only [zoneLetting, held]
  | some h => simp [zoneLetting_eq b held, ne]

end Sys2Proof.Machine
end

section
namespace Sys2Proof.Machine

/-! ### A page leaves PENDING (R87 to R89) -/

/-- The state with a page's preamble playing, or its source where there is none (R88, R89). -/
def playStarted (p : PageNo) (r : PageRec) (s : State) : State :=
  if hasPreamble r s = true then startTone p .preamble r.preamble s else sourceStarted p r s

/-- The state in which a page has left PENDING. -/
def pendingLeft (p : PageNo) (r : PageRec) (s : State) : State :=
  playStarted p r (raiseNotice (.pageState p (begun r s).2 none r.origin r.priority) (putPage p (some (begun r s).1) s))

theorem hasPreamble_congr {r : PageRec} {s t : State} (h : t.ctp.patterns = s.ctp.patterns) : hasPreamble r t = hasPreamble r s := by
  rw [hasPreamble, hasPreamble, h]

theorem begun_congr {r : PageRec} {s t : State} (patterns : t.ctp.patterns = s.ctp.patterns) (ptu : t.ptu = s.ptu) :
    begun r t = begun r s := by
  rw [begun, begun, hasPreamble_congr patterns, ptu]

/-- A page whose TONE source is not empty leaves PENDING, and PCTL has nothing left to do. -/
theorem leavePending_eq {p : PageNo} {r : PageRec} {s : State} (page : s.pctl.pages.get p = some r)
    (sounds : ∀ t, r.source = .tone t → patternEmpty t s = false) : leavePending p s = (pendingLeft p r s, []) := by
  have stopped : modPage p (fun r => { r with waitAt := none }) s = putPage p (some { r with waitAt := none }) s := by
    rw [modPage, modAt_eq_putAt, page]
    rfl
  have skips : (r.preamble ≠ 0 ∧ patternEmpty r.preamble (putPage p (some { r with waitAt := none }) s) = false)
      ↔ hasPreamble r s = true := by
    simp [hasPreamble, patternEmpty_eq_false]
  have kept : (raiseNotice (.pageState p (begun r s).2 none r.origin r.priority) (putPage p (some (begun r s).1) s)).ctp = s.ctp := by
    rw [raiseNotice_ntuAfter, putPage_ctp]
  rw [pendingLeft, playStarted, hasPreamble_congr (s := s) (by rw [kept]), leavePending, page]
  simp only [stopped]
  by_cases plays : hasPreamble r s = true
  · rw [if_pos (skips.mpr plays), if_pos plays, begun, if_pos plays]
    simp [modPage, modAt_eq_putAt, putPage, putAt_putAt, pageNotice]
  · rw [if_neg (mt skips.mp plays), if_neg plays, begun, if_neg plays,
      enterActive_eq (r := { r with waitAt := none }) (s := putPage p _ s) (by simp [putPage]) sounds]
    simp only [putPage, putAt_putAt, pageNotice]
    rfl

/-- What the page plays is what R88 and R89 say. -/
theorem begins_playStarted {p : PageNo} {r : PageRec} {s t : State} (patterns : t.ctp.patterns = s.ctp.patterns)
    (fetch : s.ctp.fetches.get p = none → t.ctp.fetches.get p = none)
    (sounds : ∀ u, r.source = .tone u → patternEmpty u s = false) : Begins p r s (playStarted p r t) := by
  have tone : ∀ use u, patternEmpty u s = false →
      ((startTone p use u t).ctp.contexts.get p).playing = .tone (toneStart use u s) := fun use u sound => by
    have full : patternEmpty u t = false := by rw [patternEmpty, patterns]; exact sound
    simp [startTone, modContext, tonePass, full, toneStart, patterns]
  rw [Begins, playStarted, hasPreamble_congr patterns]
  split
  · next plays => exact tone .preamble r.preamble (patternEmpty_eq_false.mpr (by simpa [hasPreamble] using (Bool.and_eq_true_iff.mp plays).2))
  · cases source : r.source with
    | live k => simp [sourceStarted, source, modContext]
    | tone u =>
      simp only [sourceStarted, source]
      exact tone _ u (sounds u source)
    | clip c =>
      intro free
      simp [sourceStarted, source, startClip_eq (fetch free), putFetch, modContext, freshClip]

theorem playerOnly_playStarted (p : PageNo) (r : PageRec) (s : State) : PlayerOnly p s (playStarted p r s) := by
  unfold playStarted
  split
  · exact playerOnly_play p _ s
  · exact playerOnly_sourceStarted p r s

theorem pendingLeft_only (p : PageNo) (r : PageRec) (s : State) :
    PlayerOnly p { raiseNotice (.pageState p (begun r s).2 none r.origin r.priority) s with
      pctl := { s.pctl with pages := putAt s.pctl.pages p (some (begun r s).1) } } (pendingLeft p r s) := by
  have before : raiseNotice (.pageState p (begun r s).2 none r.origin r.priority) (putPage p (some (begun r s).1) s)
      = { raiseNotice (.pageState p (begun r s).2 none r.origin r.priority) s with
        pctl := { s.pctl with pages := putAt s.pctl.pages p (some (begun r s).1) } } := by
    simp only [raiseNotice_ntuAfter, putPage]
  rw [pendingLeft, before]
  exact playerOnly_playStarted p r _

/-! ### What a page finds to take (R79 to R81) -/

theorem mem_zonesToTake {r : PageRec} {z : ZoneNo} {s : State} (h : z ∈ zonesToTake r s) :
    z ∈ r.wanted ∧ obtainable r.priority z s = true := by
  unfold zonesToTake at h
  split at h
  · split at h
    · next all => exact ⟨h, List.all_eq_true.mp all z h⟩
    · cases h
  · exact List.mem_filter.mp h

theorem zonesToTake_nodup {r : PageRec} (distinct : r.wanted.Nodup) (s : State) : (zonesToTake r s).Nodup := by
  unfold zonesToTake
  split
  · split
    · exact distinct
    · exact List.nodup_nil
  · exact distinct.filter _

/-- A page that finds zones leaves none of those it wants and could have. -/
theorem mem_zonesToTake_of_obtainable {r : PageRec} {z : ZoneNo} {s : State} (finds : zonesToTake r s ≠ []) (wants : z ∈ r.wanted)
    (free : obtainable r.priority z s = true) : z ∈ zonesToTake r s := by
  unfold zonesToTake at *
  split
  · next policy =>
    rw [if_pos policy] at finds
    split
    · exact wants
    · next held => exact absurd (if_neg held) finds
  · exact List.mem_filter.mpr ⟨wants, free⟩

/-- A page that finds nothing finds nothing where no zone it wants has come free. -/
theorem zonesToTake_nil_mono {r : PageRec} {s t : State} (none : zonesToTake r s = [])
    (h : ∀ z ∈ r.wanted, obtainable r.priority z t = true → obtainable r.priority z s = true) : zonesToTake r t = [] := by
  unfold zonesToTake at *
  split
  · next policy =>
    rw [if_pos policy] at none
    split
    · next all =>
      rwa [if_pos (List.all_eq_true.mpr fun z hz => h z hz (List.all_eq_true.mp all z hz))] at none
    · rfl
  · next policy =>
    rw [if_neg policy] at none
    exact List.filter_eq_nil_iff.mpr fun z hz free => List.filter_eq_nil_iff.mp none z hz (h z hz free)

/-- A page that is not PENDING and can have no zone it wants finds nothing. -/
theorem zonesToTake_nil_of_held {r : PageRec} {s : State} (left : r.state ≠ .pending)
    (held : ∀ z ∈ r.wanted, obtainable r.priority z s = false) : zonesToTake r s = [] := by
  rw [zonesToTake, if_neg fun both => left both.2]
  exact List.filter_eq_nil_iff.mpr fun z hz => by simp [held z hz]

/-- A page can have no zone that is held at its own priority or above. -/
theorem obtainable_held {pr : PagePriority} {z : ZoneNo} {h : Holder} {s : State} (held : s.pctl.holders.get z = some h)
    (rank : priorityRank pr ≤ priorityRank h.priority) : obtainable pr z s = false := by
  simp only [obtainable, held, decide_eq_false_iff_not]
  omega

theorem obtainable_congr {pr : PagePriority} {z : ZoneNo} {s t : State} (h : t.pctl.holders.get z = s.pctl.holders.get z) :
    obtainable pr z t = obtainable pr z s := by rw [obtainable, obtainable, h]

end Sys2Proof.Machine
end

section
namespace Sys2Proof.Machine

/-! ### The order of a pass (R82) -/

/-- A live page of a priority. -/
def inBlock (pr : PagePriority) (s : State) (p : PageNo) : Bool :=
  (s.pctl.pages.get p).any fun r => livePage r && r.priority = pr

/-- The live pages of a list, by priority, highest first, and then in the list's order. -/
def passOver (order : List PageNo) (s : State) : List PageNo :=
  [PagePriority.emergency, .urgent, .normal, .background].flatMap fun pr => order.filter (inBlock pr s)

theorem passOrder_eq (s : State) : passOrder s = passOver s.pctl.pageOrder s := by
  have block : ∀ pr, (fun p => match s.pctl.pages.get p with
      | some r => livePage r && r.priority = pr
      | none => false) = inBlock pr s := fun pr => funext fun p => by
    unfold inBlock
    cases s.pctl.pages.get p <;> rfl
  exact congrArg (fun f => List.flatMap f _) (funext fun pr => congrArg (List.filter · s.pctl.pageOrder) (block pr))

theorem inBlock_iff {pr : PagePriority} {s : State} {p : PageNo} :
    inBlock pr s p = true ↔ ∃ r, s.pctl.pages.get p = some r ∧ r.state ≠ .releasing ∧ r.priority = pr := by
  unfold inBlock
  cases s.pctl.pages.get p <;> simp [livePage]

/-- A record that is free is in no block. -/
theorem passOver_erase {order : List PageNo} {e : PageNo} {s : State} (free : s.pctl.pages.get e = none) :
    passOver (order.erase e) s = passOver order s := by
  have block : ∀ pr, (order.erase e).filter (inBlock pr s) = order.filter (inBlock pr s) := fun pr => by
    have out : inBlock pr s e = false := by simp [inBlock, free]
    induction order with
    | nil => rfl
    | cons y ys ih =>
      by_cases eq : y = e
      · subst eq
        simp [out]
      · rw [List.erase_cons_tail (by simpa using eq), List.filter_cons, List.filter_cons, ih]
  simp only [passOver, block]

/-- The priorities above one and those below it, in the order of a pass. -/
theorem priorities_split (pr : PagePriority) : ∃ high low, [PagePriority.emergency, .urgent, .normal, .background] = high ++ pr :: low
    ∧ (∀ q ∈ high, priorityRank pr < priorityRank q) ∧ ∀ q ∈ low, priorityRank q < priorityRank pr := by
  cases pr with
  | emergency => exact ⟨[], [.urgent, .normal, .background], rfl, by decide, by decide⟩
  | urgent => exact ⟨[.emergency], [.normal, .background], rfl, by decide, by decide⟩
  | normal => exact ⟨[.emergency, .urgent], [.background], rfl, by decide, by decide⟩
  | background => exact ⟨[.emergency, .urgent, .normal], [], rfl, by decide, by decide⟩

/-- What a pass visits before a page: pages of a higher priority, or of its own that stand before it; and behind it: pages of no
higher priority. -/
theorem passOver_split {p : PageNo} {r : PageRec} {order : List PageNo} {s : State} (page : s.pctl.pages.get p = some r)
    (live : r.state ≠ .releasing) (mem : p ∈ order) : ∃ before behind, passOver order s = before ++ p :: behind
      ∧ (∀ y ∈ before, y ∈ order ∧ ∀ v, s.pctl.pages.get y = some v → priorityRank r.priority < priorityRank v.priority
        ∨ v.priority = r.priority ∧ order.idxOf y < order.idxOf p)
      ∧ ∀ y ∈ behind, y ∈ order ∧ ∀ v, s.pctl.pages.get y = some v → priorityRank v.priority ≤ priorityRank r.priority := by
  obtain ⟨first, rest, split, new⟩ := List.eq_append_cons_of_mem mem
  obtain ⟨high, low, priorities, above, below⟩ := priorities_split r.priority
  have own : inBlock r.priority s p = true := inBlock_iff.mpr ⟨r, page, live, rfl⟩
  have block : ∀ {pr y v}, inBlock pr s y = true → s.pctl.pages.get y = some v → v.priority = pr := fun hy hv => by
    obtain ⟨u, hu, -, hp⟩ := inBlock_iff.mp hy
    rw [hv] at hu
    exact (Option.some.inj hu) ▸ hp
  refine ⟨high.flatMap (fun pr => order.filter (inBlock pr s)) ++ first.filter (inBlock r.priority s),
    rest.filter (inBlock r.priority s) ++ low.flatMap (fun pr => order.filter (inBlock pr s)), ?_, fun y hy => ?_, fun y hy => ?_⟩
  · have middle : order.filter (inBlock r.priority s)
        = first.filter (inBlock r.priority s) ++ p :: rest.filter (inBlock r.priority s) := by
      conv => lhs; rw [split]
      rw [List.filter_append, List.filter_cons_of_pos own]
    rw [passOver, priorities, List.flatMap_append, List.flatMap_cons, middle]
    simp only [List.append_assoc, List.cons_append]
  · obtain higher | same := List.mem_append.mp hy
    · obtain ⟨pr, hpr, hy⟩ := List.mem_flatMap.mp higher
      obtain ⟨hy, hb⟩ := List.mem_filter.mp hy
      exact ⟨hy, fun v hv => .inl (block hb hv ▸ above pr hpr)⟩
    · obtain ⟨hy, hb⟩ := List.mem_filter.mp same
      refine ⟨by rw [split]; exact List.mem_append_left _ hy, fun v hv => .inr ⟨block hb hv, ?_⟩⟩
      rw [split, List.idxOf_append_of_mem hy, List.idxOf_append_of_notMem new, List.idxOf_cons_self]
      exact Nat.lt_of_lt_of_le (List.idxOf_lt_length_of_mem hy) (Nat.le_add_right _ _)
  · obtain same | lower := List.mem_append.mp hy
    · obtain ⟨hy, hb⟩ := List.mem_filter.mp same
      exact ⟨by rw [split]; simp [hy], fun v hv => by rw [block hb hv]⟩
    · obtain ⟨pr, hpr, hy⟩ := List.mem_flatMap.mp lower
      obtain ⟨hy, hb⟩ := List.mem_filter.mp hy
      exact ⟨hy, fun v hv => by rw [block hb hv]; exact (below pr hpr).le⟩

theorem collect_append {α : Type} {f : α → State → State × List PageTask} (xs ys : List α) (s : State) :
    collect f (xs ++ ys) s = ((collect f ys (collect f xs s).1).1, (collect f xs s).2 ++ (collect f ys (collect f xs s).1).2) := by
  rw [collect, List.foldl_append]
  exact foldl_collect ys _ _

/-- A pass in which one page finds zones, those before it none, and those behind it, itself included, none either once it has taken
them. -/
theorem acquisitionPass_one {p : PageNo} {r : PageRec} {order : List PageNo} {s t : State} (visits : passOrder s = passOver order s)
    (page : s.pctl.pages.get p = some r) (live : r.state ≠ .releasing) (mem : p ∈ order) (visit : visitPage p s = (t, []))
    (kept : ∀ y, y ≠ p → t.pctl.pages.get y = s.pctl.pages.get y)
    (earlier : ∀ y v, y ∈ order → s.pctl.pages.get y = some v → v.state ≠ .releasing →
      priorityRank r.priority < priorityRank v.priority ∨ v.priority = r.priority ∧ order.idxOf y < order.idxOf p → zonesToTake v s = [])
    (self : ∀ v, t.pctl.pages.get p = some v → zonesToTake v t = [])
    (later : ∀ y v, y ≠ p → y ∈ order → s.pctl.pages.get y = some v → v.state ≠ .releasing →
      priorityRank v.priority ≤ priorityRank r.priority → zonesToTake v t = []) :
    acquisitionPass s = (t, []) := by
  obtain ⟨before, behind, split, first, last⟩ := passOver_split page live mem
  have idle : collect visitPage before s = (s, []) := collect_idle fun y hy => visitPage_idle fun v hv live =>
    earlier y v (first y hy).1 hv live ((first y hy).2 v hv)
  have idle' : collect visitPage behind t = (t, []) := collect_idle fun y hy => visitPage_idle fun v hv live => by
    by_cases e : y = p
    · exact self v (e ▸ hv)
    · rw [kept y e] at hv
      exact later y v e (last y hy).1 hv live ((last y hy).2 v hv)
  rw [acquisitionPass, visits, split, collect_append, idle, collect_cons, visit, idle']
  rfl

end Sys2Proof.Machine
end

section
namespace Sys2Proof.Machine

/-! ### Zones taken in a pass (R79, R82) -/

/-- ZONE_LOST of a zone that a page takes from a holder that is not letting it go (R79). -/
def lossOf (p : PageNo) (s : State) (z : ZoneNo) : Option Notice :=
  match s.pctl.holders.get z with
  | some h => if h.lettingGo = true then none else some (.zoneLost h.page z .preempted (some p))
  | none => none

/-- The entry of a zone that a page takes. -/
def takenBy (p : PageNo) (r : PageRec) : Holder := ⟨p, r.priority, r.trim, false⟩

/-- The state in which a page has taken some zones, with the losses of their holders raised. -/
def zonesWon (p : PageNo) (r : PageRec) (zs : List ZoneNo) (s : State) : State :=
  { zonesTaken (takenBy p r) zs s with ntu := ntuAfter (zs.filterMap (lossOf p s)) s.ptu s.ntu }

/-- The holders of some zones, where they have any, are pages in use that are not RELEASING. -/
def HeldLive (zs : List ZoneNo) (s : State) : Prop :=
  ∀ z ∈ zs, ∀ h, s.pctl.holders.get z = some h → ∃ l, s.pctl.pages.get h.page = some l ∧ l.state ≠ .releasing

theorem zoneTaken_ntu (z : ZoneNo) (h : Holder) (s : State) (n : Ntu) :
    zoneTaken z h { s with ntu := n } = { zoneTaken z h s with ntu := n } := by
  rw [zoneTaken_eq, zoneTaken_eq]
  rfl

theorem zonesTaken_withNtu (h : Holder) (zs : List ZoneNo) (s : State) (n : Ntu) :
    zonesTaken h zs { s with ntu := n } = { zonesTaken h zs s with ntu := n } := by
  induction zs generalizing s with
  | nil => rfl
  | cons z zs ih => rw [zonesTaken_cons, zoneTaken_ntu, ih, zonesTaken_cons]

/-- A holder that is in use and not RELEASING loses the zone alone. -/
theorem takeZone_live {p : PageNo} {r : PageRec} {z : ZoneNo} {s : State} (live : HeldLive [z] s) :
    takeZone p r z s = (zonesWon p r [z] s, []) := by
  have single : zonesTaken (takenBy p r) [z] s = zoneTaken z (takenBy p r) s := rfl
  cases held : s.pctl.holders.get z with
  | none =>
    simp only [takeZone, held, zonesWon, lossOf, List.filterMap_cons, List.filterMap_nil, ntuAfter_nil, single]
    rw [← zoneTaken_ntu]
    rfl
  | some h =>
    obtain ⟨l, page, going⟩ := live z (by simp) h held
    have kept : ∀ u : State, u.pctl.pages = s.pctl.pages → freeIfEmptied h.page u = (u, []) := fun u hu => by
      simp [freeIfEmptied, hu, page, going]
    have pages : ∀ n, (zoneTaken z (takenBy p r) { s with ntu := n }).pctl.pages = s.pctl.pages := fun n => by rw [zoneTaken_eq]
    rw [zonesWon, single, ← zoneTaken_ntu]
    cases letting : h.lettingGo with
    | true =>
      simp only [takeZone, held, letting, lossOf, List.filterMap_cons, List.filterMap_nil, ntuAfter_nil, if_true, Bool.not_true,
        Bool.false_and, Bool.false_eq_true, if_false]
      exact kept _ (pages s.ntu)
    | false =>
      simp [takeZone, held, letting, lossOf, page, livePage, going, raiseNotice_ntuAfter]
      exact kept _ (pages _)

theorem lossOf_congr {p : PageNo} {z : ZoneNo} {s t : State} (h : t.pctl.holders.get z = s.pctl.holders.get z) :
    lossOf p t z = lossOf p s z := by rw [lossOf, lossOf, h]

/-- Zones taken one after another. -/
theorem collect_takeZone {p : PageNo} {r : PageRec} {zs : List ZoneNo} {s : State} (distinct : zs.Nodup) (live : HeldLive zs s) :
    collect (takeZone p r) zs s = (zonesWon p r zs s, []) := by
  induction zs generalizing s with
  | nil => rfl
  | cons z zs ih =>
    obtain ⟨hz, distinct⟩ := List.nodup_cons.mp distinct
    have first : takeZone p r z s = (zonesWon p r [z] s, []) := takeZone_live fun y hy => live y (by simp at hy; simp [hy])
    have holders : ∀ y ∈ zs, (zonesWon p r [z] s).pctl.holders.get y = s.pctl.holders.get y := fun y hy => by
      show (zonesTaken (takenBy p r) [z] s).pctl.holders.get y = _
      rw [zonesTaken_holders, if_neg (by simpa using ne_of_mem_of_not_mem hy hz)]
    have pages : (zonesWon p r [z] s).pctl.pages = s.pctl.pages := zonesTaken_pages _ _ _
    have rest := ih (s := zonesWon p r [z] s) distinct fun y hy h hh => by
      rw [pages]
      exact live y (List.mem_cons_of_mem z hy) h (holders y hy ▸ hh)
    have losses : zs.filterMap (lossOf p (zonesWon p r [z] s)) = zs.filterMap (lossOf p s) :=
      List.filterMap_congr fun y hy => lossOf_congr (holders y hy)
    have both : zonesWon p r zs (zonesWon p r [z] s) = zonesWon p r (z :: zs) s := by
      have ntu : ntuAfter (zs.filterMap (lossOf p s)) (zonesWon p r [z] s).ptu (zonesWon p r [z] s).ntu
          = ntuAfter ((z :: zs).filterMap (lossOf p s)) s.ptu s.ntu := by
        show ntuAfter _ (zonesTaken (takenBy p r) [z] s).ptu (ntuAfter ([z].filterMap (lossOf p s)) s.ptu s.ntu) = _
        rw [zonesTaken_ptu, ntuAfter_ntuAfter, ← List.filterMap_append]
        rfl
      rw [zonesWon, losses, ntu, zonesWon, zonesTaken_withNtu]
      rfl
    rw [collect_cons, first, rest, both]
    rfl

/-- A live page's turn, where its zones' holders are live and its TONE source is not empty. -/
theorem visitPage_takes {p : PageNo} {r : PageRec} {s : State} (page : s.pctl.pages.get p = some r) (going : r.state ≠ .releasing)
    (distinct : (zonesToTake r s).Nodup) (live : HeldLive (zonesToTake r s) s)
    (sounds : ∀ t, r.source = .tone t → patternEmpty t s = false) :
    visitPage p s = (if r.state = .pending ∧ zonesToTake r s ≠ [] then pendingLeft p r (zonesWon p r (zonesToTake r s) s)
      else zonesWon p r (zonesToTake r s) s, []) := by
  have won : (zonesWon p r (zonesToTake r s) s).pctl.pages.get p = some r := by
    show (zonesTaken (takenBy p r) (zonesToTake r s) s).pctl.pages.get p = _
    rw [zonesTaken_pages, page]
  have patterns : (zonesWon p r (zonesToTake r s) s).ctp.patterns = s.ctp.patterns := zonesTaken_patterns _ _ _
  have moves := leavePending_eq won fun t ht => by rw [patternEmpty, patterns]; exact sounds t ht
  rw [visitPage, page]
  simp only [collect_takeZone distinct live, moves]
  rw [if_pos (by simpa [livePage] using going)]
  split <;> rfl

/-! ### The zones' stages (R124, R135, R137, R138) -/

section Taken

variable (h : Holder)

theorem zonesTaken_kept {zs : List ZoneNo} {y : ZoneNo} (hy : y ∉ zs) (s : State) :
    (zonesTaken h zs s).zos.zones.get y = s.zos.zones.get y ∧ (zonesTaken h zs s).amon.get y = s.amon.get y
      ∧ (zonesTaken h zs s).ctp.overrun.get y = s.ctp.overrun.get y := by
  induction zs generalizing s with
  | nil => exact ⟨rfl, rfl, rfl⟩
  | cons z zs ih =>
    obtain ⟨ne, later⟩ : y ≠ z ∧ y ∉ zs := by simpa using hy
    obtain ⟨zones, amon, overrun⟩ := ih later (zoneTaken z h s)
    rw [zonesTaken_cons, zones, amon, overrun, zoneTaken_eq]
    exact ⟨by simp [ne], by simp [ne], by simp [ne]⟩

theorem zonesTaken_taken {zs : List ZoneNo} {y : ZoneNo} (distinct : zs.Nodup) (hy : y ∈ zs) (s : State) :
    ZoneTaken y h s (zonesTaken h zs s) := by
  induction zs generalizing s with
  | nil => cases hy
  | cons z zs ih =>
    obtain ⟨hz, distinct⟩ := List.nodup_cons.mp distinct
    rw [zonesTaken_cons]
    obtain rfl | later := List.mem_cons.mp hy
    · obtain ⟨zones, amon, overrun⟩ := zonesTaken_kept h hz (zoneTaken y h s)
      have first := zoneTaken_zone y h s
      exact ⟨zones.trans first.stage, overrun.trans first.overrun, amon.trans first.noise⟩
    · have ne : y ≠ z := ne_of_mem_of_not_mem later hz
      have rest := ih distinct later (zoneTaken z h s)
      obtain ⟨zones, amon, -⟩ := zonesTaken_kept h (zs := [z]) (by simpa using ne) s
      have zones : (zoneTaken z h s).zos.zones.get y = s.zos.zones.get y := zones
      have amon : (zoneTaken z h s).amon.get y = s.amon.get y := amon
      have ptu : (zoneTaken z h s).ptu = s.ptu := by rw [zoneTaken_eq]
      refine ⟨rest.stage.trans ?_, rest.overrun, rest.noise.trans (by rw [amon])⟩
      rw [amon, zones, heldStage_congr ptu]

end Taken

end Sys2Proof.Machine
end

section
namespace Sys2Proof.Machine

/-! ### A page's turn in a pass (R79, R82, R87 to R89) -/

/-- What a page's turn does that gives it some zones: the zones are its own, and a page that was PENDING with a zone has moved on. -/
structure TurnTaken (p : PageNo) (r : PageRec) (zs : List ZoneNo) (s t : State) : Prop where
  holders : ∀ y, t.pctl.holders.get y = if y ∈ zs then some (takenBy p r) else s.pctl.holders.get y
  pages : t.pctl.pages = if r.state = .pending ∧ zs ≠ [] then putAt s.pctl.pages p (some (begun r s).1) else s.pctl.pages
  pctl : t.pctl = { s.pctl with pages := t.pctl.pages, holders := t.pctl.holders }
  players : ∀ q, q ≠ p → t.ctp.contexts.get q = s.ctp.contexts.get q ∧ t.ctp.fetches.get q = s.ctp.fetches.get q
  entry : (t.ctp.contexts.get p).entry = (s.ctp.contexts.get p).entry
  begins : r.state = .pending → zs ≠ [] → Begins p r s t
  stays : ¬ (r.state = .pending ∧ zs ≠ []) →
    t.ctp.contexts.get p = s.ctp.contexts.get p ∧ t.ctp.fetches.get p = s.ctp.fetches.get p
  taken : ∀ z ∈ zs, ZoneTaken z (takenBy p r) s t
  kept : ∀ z, z ∉ zs → t.zos.zones.get z = s.zos.zones.get z ∧ t.amon.get z = s.amon.get z
    ∧ t.ctp.overrun.get z = s.ctp.overrun.get z
  ntu : t.ntu = ntuAfter (zs.filterMap (lossOf p s)
    ++ if r.state = .pending ∧ zs ≠ [] then [.pageState p (begun r s).2 none r.origin r.priority] else []) s.ptu s.ntu
  rest : t.ptu = s.ptu ∧ t.lmon = s.lmon ∧ t.deng = s.deng

theorem ZoneTaken.of_tables {z : ZoneNo} {h : Holder} {s t u : State} (k : ZoneTaken z h s t) (zos : u.zos = t.zos)
    (overrun : u.ctp.overrun = t.ctp.overrun) (amon : u.amon = t.amon) : ZoneTaken z h s u :=
  ⟨by rw [zos]; exact k.stage, by rw [overrun]; exact k.overrun, by rw [amon]; exact k.noise⟩

/-- A turn that gives zones to a page that stays in its state. -/
theorem turnTaken_won {p : PageNo} {r : PageRec} {zs : List ZoneNo} {s : State} (distinct : zs.Nodup)
    (stays : ¬ (r.state = .pending ∧ zs ≠ [])) : TurnTaken p r zs s (zonesWon p r zs s) where
  holders y := zonesTaken_holders _ _ _ y
  pages := by rw [if_neg stays]; exact zonesTaken_pages _ _ _
  pctl := by
    have only := congrArg State.pctl (zonesTaken_zonesOnly (takenBy p r) zs s)
    have pages : (zonesWon p r zs s).pctl.pages = s.pctl.pages := zonesTaken_pages _ _ _
    rw [pages]
    exact only
  players q _ := by rw [zonesWon, zonesTaken_zonesOnly]; exact ⟨rfl, rfl⟩
  entry := by rw [zonesWon, zonesTaken_zonesOnly]
  begins pending some := absurd ⟨pending, some⟩ stays
  stays _ := by rw [zonesWon, zonesTaken_zonesOnly]; exact ⟨rfl, rfl⟩
  taken z hz := (zonesTaken_taken _ distinct hz s).of_tables rfl rfl rfl
  kept z hz := zonesTaken_kept _ hz s
  ntu := by rw [if_neg stays, List.append_nil]; rfl
  rest := ⟨zonesTaken_ptu _ _ _, zonesTaken_lmon _ _ _, zonesTaken_deng _ _ _⟩

/-- A turn that gives a PENDING page its first zones. -/
theorem turnTaken_pendingLeft {p : PageNo} {r : PageRec} {zs : List ZoneNo} {s : State} (distinct : zs.Nodup)
    (moves : r.state = .pending ∧ zs ≠ []) (sounds : ∀ t, r.source = .tone t → patternEmpty t s = false) :
    TurnTaken p r zs s (pendingLeft p r (zonesWon p r zs s)) := by
  have won : (zonesWon p r zs s).pctl.pages = s.pctl.pages ∧ (zonesWon p r zs s).ptu = s.ptu ∧ (zonesWon p r zs s).lmon = s.lmon
      ∧ (zonesWon p r zs s).deng = s.deng :=
    ⟨zonesTaken_pages _ _ _, zonesTaken_ptu _ _ _, zonesTaken_lmon _ _ _, zonesTaken_deng _ _ _⟩
  have pctl : (zonesWon p r zs s).pctl = { s.pctl with holders := (zonesWon p r zs s).pctl.holders } :=
    congrArg State.pctl (zonesTaken_zonesOnly (takenBy p r) zs s)
  have ctp : (zonesWon p r zs s).ctp = { s.ctp with overrun := (zonesWon p r zs s).ctp.overrun } :=
    congrArg State.ctp (zonesTaken_zonesOnly (takenBy p r) zs s)
  have holders : ∀ y, (zonesWon p r zs s).pctl.holders.get y = if y ∈ zs then some (takenBy p r) else s.pctl.holders.get y :=
    zonesTaken_holders _ _ _
  have taken : ∀ z ∈ zs, ZoneTaken z (takenBy p r) s (zonesWon p r zs s) := fun z hz =>
    (zonesTaken_taken _ distinct hz s).of_tables rfl rfl rfl
  have kept : ∀ z, z ∉ zs → (zonesWon p r zs s).zos.zones.get z = s.zos.zones.get z
      ∧ (zonesWon p r zs s).amon.get z = s.amon.get z ∧ (zonesWon p r zs s).ctp.overrun.get z = s.ctp.overrun.get z :=
    fun z hz => zonesTaken_kept (takenBy p r) hz s
  have ntu : (zonesWon p r zs s).ntu = ntuAfter (zs.filterMap (lossOf p s)) s.ptu s.ntu := rfl
  have begins : Begins p r s (pendingLeft p r (zonesWon p r zs s)) :=
    begins_playStarted (by rw [raiseNotice_ntuAfter, putPage_ctp, ctp]) (fun h => by rw [raiseNotice_ntuAfter, putPage_ctp, ctp]; exact h) sounds
  have before := pendingLeft_only p r (zonesWon p r zs s)
  rw [begun_congr (r := r) (s := s) (t := zonesWon p r zs s) (by rw [ctp]) won.2.1, raiseNotice_ntuAfter] at before
  generalize zonesWon p r zs s = w at *
  generalize pendingLeft p r w = t at *
  obtain ⟨only, players, entry⟩ := before
  obtain ⟨pages, ptu, lmon, deng⟩ := won
  have tables : t.pctl = { w.pctl with pages := putAt w.pctl.pages p (some (begun r s).1) } ∧ t.zos = w.zos ∧ t.amon = w.amon
      ∧ t.ctp.overrun = w.ctp.overrun ∧ t.ptu = w.ptu ∧ t.lmon = w.lmon ∧ t.deng = w.deng
      ∧ t.ntu = ntuAfter [.pageState p (begun r s).2 none r.origin r.priority] w.ptu w.ntu := by
    rw [only]
    exact ⟨rfl, rfl, rfl, rfl, rfl, rfl, rfl, rfl⟩
  obtain ⟨tpctl, tzos, tamon, toverrun, tptu, tlmon, tdeng, tntu⟩ := tables
  exact
    { holders := fun y => by rw [tpctl]; exact holders y
      pages := by rw [if_pos moves, tpctl, pages]
      pctl := by rw [tpctl, pctl]
      players := fun q ne => by rw [(players q ne).1, (players q ne).2, ctp]; exact ⟨rfl, rfl⟩
      entry := by rw [entry, ctp]
      begins := fun _ _ => begins
      stays := fun h => absurd moves h
      taken := fun z hz => (taken z hz).of_tables tzos toverrun tamon
      kept := fun z hz => by rw [tzos, tamon, toverrun]; exact kept z hz
      ntu := by rw [if_pos moves, tntu, ntu, ptu, ntuAfter_ntuAfter]
      rest := ⟨tptu.trans ptu, tlmon.trans lmon, tdeng.trans deng⟩ }

/-- The turn of a live page, where its zones' holders are live and its TONE source is not empty. -/
theorem visitPage_turn {p : PageNo} {r : PageRec} {s : State} (page : s.pctl.pages.get p = some r) (going : r.state ≠ .releasing)
    (distinct : (zonesToTake r s).Nodup) (live : HeldLive (zonesToTake r s) s)
    (sounds : ∀ t, r.source = .tone t → patternEmpty t s = false) :
    ∃ t, visitPage p s = (t, []) ∧ TurnTaken p r (zonesToTake r s) s t := by
  refine ⟨_, visitPage_takes page going distinct live sounds, ?_⟩
  split
  · next moves => exact turnTaken_pendingLeft distinct moves sounds
  · next stays => exact turnTaken_won distinct stays

theorem TurnTaken.pages_other {p y : PageNo} {r : PageRec} {zs : List ZoneNo} {s t : State} (h : TurnTaken p r zs s t) (ne : y ≠ p) :
    t.pctl.pages.get y = s.pctl.pages.get y := by
  rw [h.pages]
  split
  · simp [ne]
  · rfl

/-- A page that had its turn finds nothing more to take. -/
theorem TurnTaken.sated {p : PageNo} {r v : PageRec} {s t : State} (h : TurnTaken p r (zonesToTake r s) s t)
    (page : s.pctl.pages.get p = some r) (now : t.pctl.pages.get p = some v) : zonesToTake v t = [] := by
  have held : ∀ z ∈ zonesToTake r s, obtainable r.priority z t = false := fun z hz =>
    obtainable_held ((h.holders z).trans (if_pos hz)) le_rfl
  rw [h.pages] at now
  by_cases finds : zonesToTake r s = []
  · rw [if_neg (fun both => both.2 finds), page] at now
    obtain rfl := Option.some.inj now
    exact zonesToTake_nil_mono finds fun z _ free => by
      rwa [obtainable_congr ((h.holders z).trans (if_neg (by simp [finds])))] at free
  · have same : v.wanted = r.wanted ∧ v.priority = r.priority ∧ v.state ≠ .pending := by
      by_cases moves : r.state = .pending
      · rw [if_pos ⟨moves, finds⟩, get_putAt, if_pos rfl] at now
        obtain rfl := Option.some.inj now
        unfold begun
        split <;> exact ⟨rfl, rfl, by simp⟩
      · rw [if_neg (fun both => moves both.1), page] at now
        obtain rfl := Option.some.inj now
        exact ⟨rfl, rfl, moves⟩
    obtain ⟨wanted, priority, left⟩ := same
    refine zonesToTake_nil_of_held left fun z hz => ?_
    rw [priority]
    by_cases takes : z ∈ zonesToTake r s
    · exact held z takes
    · rw [obtainable_congr ((h.holders z).trans (if_neg takes))]
      exact Bool.eq_false_iff.mpr fun free => takes (mem_zonesToTake_of_obtainable finds (wanted ▸ hz) free)

/-- A page of no higher priority that found nothing before finds nothing after the turn. -/
theorem TurnTaken.others {p : PageNo} {r v : PageRec} {zs : List ZoneNo} {s t : State} (h : TurnTaken p r zs s t)
    (rank : priorityRank v.priority ≤ priorityRank r.priority) {u : State} (none : zonesToTake v u = [])
    (before : ∀ z ∈ v.wanted, z ∉ zs → s.pctl.holders.get z = u.pctl.holders.get z) : zonesToTake v t = [] :=
  zonesToTake_nil_mono none fun z hz free => by
    by_cases takes : z ∈ zs
    · rw [obtainable_held ((h.holders z).trans (if_pos takes)) rank] at free
      cases free
    · rwa [obtainable_congr (((h.holders z).trans (if_neg takes)).trans (before z hz takes))] at free

end Sys2Proof.Machine
end

section
namespace Sys2Proof.Machine

/-! ### A zone reported at gain 0 (R83, R91, R141) -/

/-- ZOS has nothing to report of a zone that is not being let go, or whose gain is above 0. -/
theorem zeroReport_idle {z : ZoneNo} {s : State}
    (h : ∀ k, s.pctl.holders.get z = some k → k.lettingGo = true → (s.zos.zones.get z).ga ≠ 0) : zeroReport z s = (s, []) := by
  unfold zeroReport
  split
  · next k hk => exact if_neg fun both => h k hk both.1 both.2
  · rfl

theorem freePageRecord_eq {p : PageNo} {r : PageRec} {s : State} (nobody : s.pctl.waitList = []) :
    freePageRecord p r s = (recordFreed p r r.endCause s, []) := by
  have out : freePageRecord p r s = offerRecord (recordFreed p r r.endCause s) := by
    rw [freePageRecord, recordFreed]
    simp only [putPage, stopContext, putFetch, modContext, modAt_eq_putAt, pageNotice, raiseNotice_ntuAfter]
  rw [out]
  exact offerRecord_of_nobody nobody

theorem freeIfEmptied_eq {p : PageNo} {r : PageRec} {s : State} (page : s.pctl.pages.get p = some r)
    (nobody : r.state = .releasing → heldZones p s = [] → s.pctl.waitList = []) :
    freeIfEmptied p s = (if r.state = .releasing ∧ heldZones p s = [] then recordFreed p r r.endCause s else s, []) := by
  simp only [freeIfEmptied, page]
  split
  · next both => exact freePageRecord_eq (nobody both.1 both.2)
  · rfl

/-- A page holds nothing once its only zone is free. -/
theorem heldZones_zoneLeft {z : ZoneNo} {h : Holder} {s : State} (held : s.pctl.holders.get z = some h) :
    heldZones h.page (zoneLeft z h s) = [] ↔ heldZones h.page s = [z] := by
  have member : ∀ y, y ∈ heldZones h.page (zoneLeft z h s) ↔ y ≠ z ∧ y ∈ heldZones h.page s := fun y => by
    simp only [mem_heldZones, zoneLeft, get_putAt]
    by_cases e : y = z <;> simp [e]
  have mem : z ∈ heldZones h.page s := mem_heldZones.mpr ⟨h, held, rfl⟩
  rw [List.eq_nil_iff_forall_not_mem]
  constructor
  · intro none
    refine List.perm_singleton.mp ((List.perm_ext_iff_of_nodup (heldZones_nodup _ _) (List.nodup_singleton z)).mpr fun y => ?_)
    rw [List.mem_singleton]
    exact ⟨fun hy => by_contra fun ne => none y ((member y).mpr ⟨ne, hy⟩), fun e => e ▸ mem⟩
  · intro one y hy
    obtain ⟨ne, hy⟩ := (member y).mp hy
    rw [one, List.mem_singleton] at hy
    exact ne hy

/-- The state in which a zone that was let go is free, and with a RELEASING page's last zone the page's record. -/
def zoneGivenUp (z : ZoneNo) (h : Holder) (r : PageRec) (s : State) : State :=
  if (r.state = .releasing && heldZones h.page s = [z] : Bool) = true then recordFreed h.page r r.endCause (zoneLeft z h s)
  else zoneLeft z h s

/-- The zone's ramp timer has run out. -/
def ramped (z : ZoneNo) (s : State) : State := modZos z (rampStep s.ptu.clock) s

theorem exec_rampTimerExpiry {z : ZoneNo} {e : Nat} {s : State} (timer : (s.zos.zones.get z).rampAt = some e) (due : e ≤ s.ptu.clock) :
    exec (.rampTimerExpiry z) s = .next (settle [.zero z] (ramped z s)) :=
  if_pos (by simp [expired, timer, due])

theorem zoneLeft_ramped (z : ZoneNo) (h : Holder) (s : State) : zoneLeft z h (ramped z s) = zoneLeft z h s := by
  simp only [zoneLeft, ramped, modZos, modAt_eq_putAt, putAt_putAt, get_putAt, if_true]
  rfl

section Release

variable {z : ZoneNo} {h : Holder} {r : PageRec} {s : State}

/-- A zone that is let go and silent is free, and a pass is to be run. -/
theorem zeroReport_ramped (held : s.pctl.holders.get z = some h) (page : s.pctl.pages.get h.page = some r)
    (letting : h.lettingGo = true) (silent : gainStep (s.zos.zones.get z).ga (s.zos.zones.get z).gt = 0)
    (nobody : r.state = .releasing → heldZones h.page s = [z] → s.pctl.waitList = []) :
    zeroReport z (ramped z s) = (zoneGivenUp z h r s, [.pass]) := by
  have holder : (ramped z s).pctl.holders.get z = some h := held
  have ga : ((ramped z s).zos.zones.get z).ga = 0 := by simpa [ramped, modZos, rampStep] using silent
  have freed : freeIfEmptied h.page (zoneLeft z h s) = (zoneGivenUp z h r s, []) := by
    have emptied := heldZones_zoneLeft held
    rw [freeIfEmptied_eq (s := zoneLeft z h s) page fun go none => nobody go (emptied.mp none), zoneGivenUp]
    simp only [emptied, Bool.and_eq_true, decide_eq_true_eq]
  simp only [zeroReport, holder, letting, ga, and_self, if_true, zoneFreed_eq holder, zoneLeft_ramped, freed, List.nil_append]

/-- Where the zone was let go, the pass that follows is the rest of the event. -/
theorem settle_ramped_freed {t : State} (held : s.pctl.holders.get z = some h) (page : s.pctl.pages.get h.page = some r)
    (letting : h.lettingGo = true) (silent : gainStep (s.zos.zones.get z).ga (s.zos.zones.get z).gt = 0)
    (nobody : r.state = .releasing → heldZones h.page s = [z] → s.pctl.waitList = [])
    (pass : acquisitionPass (zoneGivenUp z h r s) = (t, [])) : settle [.zero z] (ramped z s) = t := by
  have report : pageTask (.zero z) (ramped z s) = (zoneGivenUp z h r s, [.pass]) := zeroReport_ramped held page letting silent nobody
  have pass : pageTask .pass (zoneGivenUp z h r s) = (t, []) := pass
  rw [settle_two (by rw [report]) (by rw [report, pass]), report, pass]

/-- A record in use after the zone was freed is in use before. -/
theorem pages_zoneGivenUp {y : PageNo} {v : PageRec} (now : (zoneGivenUp z h r s).pctl.pages.get y = some v) :
    s.pctl.pages.get y = some v := by
  unfold zoneGivenUp at now
  split at now
  · by_cases e : y = h.page
    · simp [recordFreed, e] at now
    · simpa [recordFreed, zoneLeft, e] using now
  · exact now

/-- A page that is not RELEASING keeps its record. -/
theorem pages_zoneGivenUp_live (page : s.pctl.pages.get h.page = some r) {y : PageNo} {v : PageRec}
    (before : s.pctl.pages.get y = some v) (live : v.state ≠ .releasing) : (zoneGivenUp z h r s).pctl.pages.get y = some v := by
  unfold zoneGivenUp
  split
  · next last =>
    have ne : y ≠ h.page := fun e => by
      rw [e, page] at before
      exact live ((Option.some.inj before) ▸ (by simpa using (Bool.and_eq_true_iff.mp last).1))
    simpa [recordFreed, zoneLeft, ne] using before
  · exact before

theorem passOrder_zoneGivenUp : passOrder (zoneGivenUp z h r s) = passOver s.pctl.pageOrder (zoneGivenUp z h r s) := by
  rw [passOrder_eq]
  unfold zoneGivenUp
  split
  · exact passOver_erase (by simp [recordFreed])
  · rfl

theorem holders_zoneGivenUp : (zoneGivenUp z h r s).pctl.holders = putAt s.pctl.holders z none := by
  unfold zoneGivenUp
  split <;> rfl

/-- The zone's own tables and the page's are all that freeing changes. -/
theorem zoneGivenUp_kept : (zoneGivenUp z h r s).ptu = s.ptu ∧ (zoneGivenUp z h r s).lmon = s.lmon
    ∧ (zoneGivenUp z h r s).deng = s.deng ∧ (zoneGivenUp z h r s).ctp.patterns = s.ctp.patterns
    ∧ ∀ y, y ≠ z → (zoneGivenUp z h r s).zos.zones.get y = s.zos.zones.get y ∧ (zoneGivenUp z h r s).amon.get y = s.amon.get y
      ∧ (zoneGivenUp z h r s).ctp.overrun.get y = s.ctp.overrun.get y := by
  have left : ∀ y, y ≠ z → (zoneLeft z h s).zos.zones.get y = s.zos.zones.get y ∧ (zoneLeft z h s).amon.get y = s.amon.get y
      ∧ (zoneLeft z h s).ctp.overrun.get y = s.ctp.overrun.get y := fun y ne => by simp [zoneLeft, ne]
  unfold zoneGivenUp
  split
  · rw [recordFreed, raiseNotice_ntuAfter]
    exact ⟨rfl, rfl, rfl, rfl, left⟩
  · exact ⟨rfl, rfl, rfl, rfl, left⟩

/-- A page number without a fetch has none after. -/
theorem fetches_zoneGivenUp {p : PageNo} (none : s.ctp.fetches.get p = none) : (zoneGivenUp z h r s).ctp.fetches.get p = .none := by
  unfold zoneGivenUp
  split
  · by_cases e : p = h.page
    · simp [recordFreed, zoneLeft, e ▸ none, e]
    · simp [recordFreed, zoneLeft, none, e]
  · exact none

end Release

/-! ### The pass that follows (R82) -/

section Pass

variable {z : ZoneNo} {h : Holder} {r : PageRec} {s : State}

/-- The other zones are as obtainable as before. -/
theorem holders_zoneGivenUp_other {y : ZoneNo} (ne : y ≠ z) :
    (zoneGivenUp z h r s).pctl.holders.get y = s.pctl.holders.get y := by
  rw [holders_zoneGivenUp, get_putAt, if_neg ne]

/-- Nobody takes a zone that nobody wants. -/
theorem pass_unwanted (unwanted : ∀ p q, p ∈ s.pctl.pageOrder → s.pctl.pages.get p = some q → q.state ≠ .releasing →
      zonesToTake q s = [] ∧ z ∉ q.wanted) : acquisitionPass (zoneGivenUp z h r s) = (zoneGivenUp z h r s, []) := by
  refine collect_idle fun p hp => visitPage_idle fun q hq live => ?_
  have order : p ∈ s.pctl.pageOrder := by
    rw [passOrder_zoneGivenUp] at hp
    obtain ⟨pr, -, hp⟩ := List.mem_flatMap.mp hp
    exact (List.mem_filter.mp hp).1
  obtain ⟨none, unwanted⟩ := unwanted p q order (pages_zoneGivenUp hq) live
  exact zonesToTake_nil_mono none fun y hy free => by
    rwa [obtainable_congr (holders_zoneGivenUp_other (ne_of_mem_of_not_mem hy unwanted))] at free

/-- The first page that can take the zone has it. -/
theorem pass_wanted {p : PageNo} {q : PageRec} (page : s.pctl.pages.get h.page = some r) (order : p ∈ s.pctl.pageOrder)
    (taker : s.pctl.pages.get p = some q) (live : q.state ≠ .releasing) (takes : zonesToTake q (zoneGivenUp z h r s) = [z])
    (sounds : ∀ k, q.source = .tone k → patternEmpty k s = false)
    (first : ∀ y v, y ∈ s.pctl.pageOrder → s.pctl.pages.get y = some v → v.state ≠ .releasing → y ≠ p →
      zonesToTake v s = [] ∧ (z ∈ v.wanted → priorityRank v.priority < priorityRank q.priority
        ∨ v.priority = q.priority ∧ s.pctl.pageOrder.idxOf p < s.pctl.pageOrder.idxOf y)) :
    ∃ t, acquisitionPass (zoneGivenUp z h r s) = (t, []) ∧ TurnTaken p q [z] (zoneGivenUp z h r s) t := by
  have taker' := pages_zoneGivenUp_live (z := z) page taker live
  have free : HeldLive (zonesToTake q (zoneGivenUp z h r s)) (zoneGivenUp z h r s) := fun y hy k hk => by
    rw [takes, List.mem_singleton] at hy
    simp [holders_zoneGivenUp, hy] at hk
  obtain ⟨t, visit, turn⟩ := visitPage_turn taker' live (by simp [takes]) free fun k hk => by
    rw [patternEmpty, zoneGivenUp_kept.2.2.2.1]
    exact sounds k hk
  refine ⟨t, acquisitionPass_one passOrder_zoneGivenUp taker' live order visit (fun y => turn.pages_other) (fun y v hy hv going ahead => ?_)
    (fun v hv => turn.sated taker' hv) (fun y v ne hy hv going rank => ?_), takes ▸ turn⟩
  · have ne : y ≠ p := by
      rintro rfl
      obtain rfl := Option.some.inj (taker'.symm.trans hv)
      omega
    obtain ⟨none, behind⟩ := first y v hy (pages_zoneGivenUp hv) going ne
    have unwanted : z ∉ v.wanted := fun wants => by
      have behind := behind wants
      grind
    exact zonesToTake_nil_mono none fun x hx free => by
      rwa [obtainable_congr (holders_zoneGivenUp_other (ne_of_mem_of_not_mem hx unwanted))] at free
  · refine turn.others rank (first y v hy (pages_zoneGivenUp hv) going ne).1 fun x _ out => ?_
    exact holders_zoneGivenUp_other (by simpa [takes] using out)

end Pass

end Sys2Proof.Machine
end

section
namespace Sys2Proof.Machine

/-! ### RAMP_TIMER_EXPIRY (R138, R141) -/

/-- An expiry that changes the zone's stage alone. -/
theorem settle_ramped_held {z : ZoneNo} {s : State}
    (h : gainStep (s.zos.zones.get z).ga (s.zos.zones.get z).gt ≠ 0 ∨ ∀ k, s.pctl.holders.get z = some k → k.lettingGo = false) :
    settle [.zero z] (ramped z s) = ramped z s := by
  have idle : pageTask (.zero z) (ramped z s) = (ramped z s, []) := zeroReport_idle fun k hk letting => by
    have hk : s.pctl.holders.get z = some k := hk
    obtain audible | kept := h
    · simpa [ramped, modZos, rampStep] using audible
    · rw [kept k hk] at letting
      cases letting
  rw [settle_one (by rw [idle]), idle]

/-- What a taken zone leaves of what the processor's words give, and of the blocks that are not concerned. -/
theorem settle_ramped_kept (z : ZoneNo) (s : State) :
    SameInputs s (settle [.zero z] (ramped z s)) ∧ (settle [.zero z] (ramped z s)).ptu = s.ptu
      ∧ (settle [.zero z] (ramped z s)).rqu = s.rqu := by
  have moves := moves_settle [.zero z] (ramped z s)
  exact ⟨(sameInputs_modZos z (by intro _; rfl) s).trans moves.sameInputs, moves.fixed.2.1, moves.fixed.2.2⟩

theorem Begins.congr {p : PageNo} {r : PageRec} {s u t : State} (h : Begins p r u t) (patterns : u.ctp.patterns = s.ctp.patterns)
    (fetch : s.ctp.fetches.get p = none → u.ctp.fetches.get p = none) : Begins p r s t := by
  unfold Begins at *
  rw [hasPreamble_congr patterns] at h
  simp only [toneStart, patterns] at h ⊢
  split
  · next plays => rwa [if_pos plays] at h
  · next silent =>
    rw [if_neg silent] at h
    cases source : r.source with
    | clip c =>
      simp only [source] at h ⊢
      exact fun none => h (fetch none)
    | _ =>
      simp only [source] at h ⊢
      exact h

/-- Settles O57: the step, the zone that becomes free, and the first page of the pass that can take it; then a change of holder. -/
theorem rampSteps : Obligations.RampSteps := by
  refine ⟨?_, ?_⟩
  · intro z s e timer due x ga stepped
    refine ⟨fun held => ?_, ?_⟩
    · rw [exec_rampTimerExpiry timer due, settle_ramped_held held]
      rfl
    intro h r silent held letting page nobody last u live
    refine ⟨fun unwanted => ?_, ?_⟩
    · rw [exec_rampTimerExpiry timer due, settle_ramped_freed held page letting silent nobody
        (pass_unwanted fun p q order page going => unwanted p q ⟨order, page, going⟩)]
      rfl
    intro p q taker takes sounds first
    obtain ⟨order, page_p, going⟩ := taker
    obtain ⟨t, pass, turn⟩ := pass_wanted page order page_p going takes (fun k hk => patternEmpty_eq_false.mpr (sounds k hk))
      fun y v hy hv live ne => first y v ⟨hy, hv, live⟩ ne
    have run := settle_ramped_freed held page letting silent nobody pass
    obtain ⟨ptu, lmon, deng, patterns, others⟩ := zoneGivenUp_kept (z := z) (h := h) (r := r) (s := s)
    obtain ⟨inputs, sptu, srqu⟩ := run ▸ settle_ramped_kept z s
    have begun_eq : begun q (zoneGivenUp z h r s) = begun q s := begun_congr patterns ptu
    have nobodyLoses : lossOf p (zoneGivenUp z h r s) z = none := by simp [lossOf, holders_zoneGivenUp]
    have moves : q.state = .pending ∧ [z] ≠ [] ↔ q.state = .pending := by simp
    refine ⟨t, by rw [exec_rampTimerExpiry timer due, run], ?_, turn.taken z (by simp), fun y ne => ?_, turn.players, ?_, inputs, sptu,
      srqu, turn.rest.2.2.trans deng, turn.rest.2.1.trans lmon⟩
    · have holders : t.pctl.holders = putAt s.pctl.holders z (some (takenBy p q)) := vector_ext_get fun y => by
        rw [turn.holders, holders_zoneGivenUp]
        by_cases e : y = z <;> simp [e]
      have pages := turn.pages
      rw [begun_eq, if_congr moves rfl rfl] at pages
      rw [turn.pctl, holders, pages]
      rfl
    · obtain ⟨zones, amon, overrun⟩ := turn.kept y (by simpa using ne)
      obtain ⟨zones', amon', overrun'⟩ := others y ne
      exact ⟨zones.trans zones', amon.trans amon', overrun.trans overrun'⟩
    · have ntu := turn.ntu
      rw [begun_eq, if_congr moves rfl rfl, List.filterMap_cons_none nobodyLoses, List.filterMap_nil, List.nil_append] at ntu
      split
      · next pending =>
        rw [if_pos pending] at ntu
        exact ⟨(turn.begins pending (by simp)).congr patterns fetches_zoneGivenUp, by rw [ntu, raiseNotice_ntuAfter]; rfl⟩
      · next stays =>
        rw [if_neg stays] at ntu
        obtain ⟨context, fetch⟩ := turn.stays (mt moves.mp stays)
        exact ⟨context, fetch, ntu⟩
  · intro z h s taken
    refine ⟨fun y ne => ⟨zoneTaken_zones_other ne h s, fun b => zoneLetting_zones_kept ne b s⟩, zoneTaken_zone z h s,
      fun k b held => ?_, fun k held => zoneFreed_eq held⟩
    rw [zoneLetting_eq b held]
    exact ⟨by simp, rfl⟩

end Sys2Proof.Machine
end

section
namespace Sys2Proof.Machine

/-! ### PAGE_START accepted (R73, R77, R93) -/

theorem exec_pageStart {n : SlotNo} {s : State} (h : Served 0x0B n s) :
    exec .pageStart s = .next (finishSlot n (pageStart (s.rqu.slots.get n).snapshot (pointed n s)).2
      (pageStart (s.rqu.slots.get n).snapshot (pointed n s)).1) :=
  congrArg Host.Outcome.next (command_of_served h pageStart)

/-- A request that is not refused is answered by the page made in the lowest free record. -/
theorem pageStart_accepted {w : Params} {p : PageNo} {src : PageSource} {s : State} (free : s.pctl.pages.get p = none)
    (lowest : ∀ j < p, s.pctl.pages.get j ≠ none)
    (check : pageRefusal (bits w.p0 0 8) (bits w.p1 0 2) (bits w.p1 8 8) (bits w.p2 0 8) (bits w.p3 0 16) (bits w.p3 16 8) s = none)
    (source : requestSource (startRequest w) = some src) :
    pageStart w s = (makeAccepted p (requestedPage (startRequest w) src) s,
      startReply p (makeAccepted p (requestedPage (startRequest w) src) s)) := by
  obtain ⟨x, hx, ok⟩ := checkPage_ok (q := startRequest w) check free lowest
  obtain rfl := Option.some.inj (source.symm.trans hx)
  simp only [pageStart, ok]

/-- What a request of a source says in its second parameter word (11.4), and that the source can be had (R93, steps 2 and 4). -/
def Sourced (w : Word) (src : PageSource) (s : State) : Prop :=
  match src with
  | .live k => bits w 0 2 = 1 ∧ bits w 8 8 = k.val ∧ ∀ q r, s.pctl.pages.get q = some r → r.source ≠ .live k
  | .clip c => bits w 0 2 = 2 ∧ bits w 8 8 = c.val ∧ (s.ctp.directory.get c).blocks ≠ 0
  | .tone t => bits w 0 2 = 3 ∧ bits w 8 8 = t.val ∧ t ≠ 0 ∧ ((s.ctp.patterns.get t).steps.get 0).duration ≠ 0

theorem requestSource_sourced {w : Params} {src : PageSource} {s : State} (h : Sourced w.p1 src s) :
    requestSource (startRequest w) = some src := by
  cases src with
  | live k =>
    obtain ⟨kind, number, -⟩ := h
    simp [requestSource, startRequest, kind, number]
  | clip c =>
    obtain ⟨kind, number, -⟩ := h
    simp [requestSource, startRequest, kind, number]
  | tone t =>
    obtain ⟨kind, number, some, -⟩ := h
    have some : t.val ≠ 0 := fun e => some (Fin.ext e)
    simp [requestSource, startRequest, kind, number, some]

/-- The request that the statement of PAGE_START describes is not refused (R93). -/
theorem pageRefusal_none {w : Params} {p : PageNo} {src : PageSource} {x : TargetNo} {b : PatternNo} {s : State}
    (free : s.pctl.pages.get p = none) (sourced : Sourced w.p1 src s) (target : bits w.p0 0 8 = x.val)
    (preamble : bits w.p2 0 8 = b.val) (duration : bits w.p3 0 16 ≤ 600) (wait : bits w.p3 16 8 ≤ 60)
    (zones : ∃ z : ZoneNo, (s.pctl.targets.get x).getLsbD z.val = true ∧ s.pctl.enabled.get z = true) :
    pageRefusal (bits w.p0 0 8) (bits w.p1 0 2) (bits w.p1 8 8) (bits w.p2 0 8) (bits w.p3 0 16) (bits w.p3 16 8) s = none := by
  have room : ¬ ∀ p : PageNo, (s.pctl.pages.get p).isSome = true := fun all => by simpa [free] using all p
  have some : ¬ ∀ z : ZoneNo, (s.pctl.targets.get x).getLsbD z.val = true → s.pctl.enabled.get z = false := fun none => by
    obtain ⟨z, named, enabled⟩ := zones
    simp [none z named] at enabled
  rw [target, preamble]
  have number : Fin.ofNat 32 x.val = x := by simp
  unfold pageRefusal
  rw [if_neg, if_neg, if_neg room, if_neg, if_neg (by rw [number]; exact some)]
  · cases src with
    | live k =>
      obtain ⟨kind, hk, free⟩ := sourced
      rintro ⟨-, q, hq⟩
      simp only [hk] at hq
      cases hr : s.pctl.pages.get q with
      | none => simp [hr] at hq
      | some r => simp [hr] at hq; exact free q r hr hq
    | clip c => exact fun busy => by simp [sourced.1] at busy
    | tone t => exact fun busy => by simp [sourced.1] at busy
  · cases src with
    | clip c =>
      obtain ⟨kind, hc, blocks⟩ := sourced
      rw [hc]
      simpa using fun _ => blocks
    | live k => exact fun empty => by simp [sourced.1] at empty
    | tone t => exact fun empty => by simp [sourced.1] at empty
  · cases src with
    | live k =>
      obtain ⟨kind, hk, -⟩ := sourced
      omega
    | clip c =>
      obtain ⟨kind, hc, -⟩ := sourced
      omega
    | tone t =>
      obtain ⟨kind, ht, some, -⟩ := sourced
      have some : t.val ≠ 0 := fun e => some (Fin.ext e)
      omega

end Sys2Proof.Machine
end

section
namespace Sys2Proof.Machine

/-! ### The page is made, and has its turn (R74, R77, R79 to R82) -/

/-- The record of a page as it is made: PENDING, with its wanted set and its wait limit running (R77, R87). -/
def pendingRec (r : PageRec) (s : State) : PageRec :=
  { r with
    state := .pending, wasActive := false, endCause := none, maxAt := none, wanted := floorZones r.target r.priority s
    waitAt := if r.waitLimit = 0 then none else some (s.ptu.clock + 1000 * r.waitLimit) }

/-- The directory entry a page's context copies (R101). -/
def entryOf (src : PageSource) (s : State) : ClipEntry :=
  match src with
  | .clip c => s.ctp.directory.get c
  | _ => ClipEntry.initial

/-- The state with a page made in a record, at the tail of the Page Order. -/
def pageMade (p : PageNo) (r : PageRec) (s : State) : State :=
  { s with
    pctl := { s.pctl with pages := putAt s.pctl.pages p (some (pendingRec r s)), pageOrder := s.pctl.pageOrder ++ [p] }
    ctp := { s.ctp with contexts := putAt s.ctp.contexts p ⟨entryOf r.source s, .idle, false⟩ }
    ntu := ntuAfter [.pageState p .pending none r.origin r.priority] s.ptu s.ntu }

theorem makePage_eq (p : PageNo) (r : PageRec) (s : State) : makePage p r s = pageMade p r s := by
  simp only [makePage, pageNotice, pageMade, raiseNotice_ntuAfter]
  rfl

/-- Among pages that can take nothing, a new page has its turn as if it were alone. -/
theorem pass_pageMade {p : PageNo} {r : PageRec} {s : State} (settled : Settled s) (free : s.pctl.pages.get p = none)
    (sounds : ∀ t, r.source = .tone t → patternEmpty t s = false) :
    ∃ t, acquisitionPass (pageMade p r s) = (t, [])
      ∧ TurnTaken p (pendingRec r s) (zonesToTake (pendingRec r s) s) (pageMade p r s) t := by
  have page : (pageMade p r s).pctl.pages.get p = some (pendingRec r s) := by simp [pageMade]
  have others : ∀ {y}, y ≠ p → (pageMade p r s).pctl.pages.get y = s.pctl.pages.get y := fun ne => by simp [pageMade, ne]
  have finds : zonesToTake (pendingRec r s) (pageMade p r s) = zonesToTake (pendingRec r s) s := zonesToTake_congr rfl
  have distinct : (zonesToTake (pendingRec r s) s).Nodup := zonesToTake_nodup (floorZones_nodup _ _ _) s
  have live : HeldLive (zonesToTake (pendingRec r s) s) (pageMade p r s) := fun z _ h held => by
    obtain ⟨l, hl⟩ := Option.isSome_iff_exists.mp (settled.holders z h held)
    have ne : h.page ≠ p := fun e => by simp [e, free] at hl
    exact ⟨l, (others ne).trans hl, settled.live _ l hl⟩
  have going : (pendingRec r s).state ≠ .releasing := by simp [pendingRec]
  have ctp : (pageMade p r s).ctp.patterns = s.ctp.patterns := rfl
  obtain ⟨t, visit, turn⟩ := visitPage_turn page going (finds.symm ▸ distinct) (finds.symm ▸ live) fun t ht => by
    rw [patternEmpty, ctp]
    exact sounds t ht
  refine ⟨t, acquisitionPass_one (passOrder_eq _) page going (by simp [pageMade]) visit (fun y => turn.pages_other) (fun y v _ hv _ ahead => ?_)
    (fun v hv => turn.sated page hv) (fun y v ne _ hv _ rank => ?_), finds ▸ turn⟩
  · have ne : y ≠ p := by
      rintro rfl
      obtain rfl := Option.some.inj (page.symm.trans hv)
      omega
    exact (zonesToTake_congr (s := s) rfl).trans (settled.takes y v ((others ne).symm.trans hv))
  · exact turn.others rank (settled.takes y v ((others ne).symm.trans hv)) fun _ _ _ => rfl

theorem makeAccepted_eq {p : PageNo} {r : PageRec} {s t : State} (pass : acquisitionPass (pageMade p r s) = (t, [])) :
    makeAccepted p r s = t := by
  have task : pageTask .pass (pageMade p r s) = (t, []) := pass
  rw [makeAccepted, makePage_eq, settle_one (by rw [task]), task]

/-! ### The answer (R93) -/

/-- The code of the state a page stands in after its turn (11.4). -/
theorem begun_stateValue (r : PageRec) (s : State) : pageStateValue (begun r s).1.state = if hasPreamble r s = true then 2 else 3 := by
  unfold begun
  split <;> rfl

/-- The zones a new page holds are those it took. -/
theorem heldZones_turn {p : PageNo} {r : PageRec} {zs : List ZoneNo} {s t : State} (turn : TurnTaken p r zs s t)
    (distinct : zs.Nodup) (fresh : ∀ z h, s.pctl.holders.get z = some h → h.page ≠ p) : (heldZones p t).length = zs.length := by
  refine ((List.perm_ext_iff_of_nodup (heldZones_nodup p t) distinct).mpr fun z => ?_).length_eq
  rw [mem_heldZones, turn.holders]
  split
  · next mem => exact ⟨fun _ => mem, fun _ => ⟨_, rfl, rfl⟩⟩
  · next out => exact ⟨fun ⟨h, held, page⟩ => absurd page (fresh z h held), fun mem => absurd mem out⟩

/-- The reply to a request whose page had its turn. -/
theorem startReply_turn {p : PageNo} {r : PageRec} {zs : List ZoneNo} {s t : State} (turn : TurnTaken p r zs s t)
    (page : s.pctl.pages.get p = some r) (pending : r.state = .pending) (origin : r.origin = .request)
    (distinct : zs.Nodup) (fresh : ∀ z h, s.pctl.holders.get z = some h → h.page ≠ p) :
    startReply p t = ⟨.ok, packed [(p.val, 0), (if zs = [] then 1 else if hasPreamble r s = true then 2 else 3, 8),
      (zs.length, 16)], 0⟩ := by
  have held := heldZones_turn turn distinct fresh
  have pages := turn.pages
  by_cases none : zs = []
  · rw [if_neg fun both => both.2 none] at pages
    have now : t.pctl.pages.get p = some r := by rw [pages, page]
    simp only [startReply, now, origin, pending, held, if_true, none, pageStateValue]
  · rw [if_pos ⟨pending, none⟩] at pages
    have now : t.pctl.pages.get p = some (begun r s).1 := by rw [pages, get_putAt, if_pos rfl]
    have same : (begun r s).1.origin = .request := by
      unfold begun
      split <;> exact origin
    simp only [startReply, now, same, held, if_true, if_neg none, begun_stateValue]

end Sys2Proof.Machine
end

section
namespace Sys2Proof.Machine

/-! ### PAGE_START (R93) -/

theorem priorityOf_rank (pr : PagePriority) : priorityOf (priorityRank pr) = pr := by
  cases pr <;> rfl

theorem Settled.pointed {s : State} (h : Settled s) (n : SlotNo) : Settled (pointed n s) :=
  ⟨h.takes, h.live, h.holders, h.order⟩

/-- A page that finds every zone it can have, or none. -/
theorem zonesToTake_pending {r : PageRec} {wait : Bool} {s : State} (pending : r.state = .pending)
    (policy : r.policy = if wait = true then .allOrWait else .partialZones) :
    zonesToTake r s = if wait = true then (if r.wanted.all (obtainable r.priority · s) = true then r.wanted else [])
      else r.wanted.filter (obtainable r.priority · s) := by
  unfold zonesToTake
  rw [policy, pending]
  cases wait <;> simp

/-- Settles O48: the request is not refused, its page is made, and its turn gives it what the pass can. -/
theorem pageStarts : Obligations.PageStarts := by
  intro n s p x src pr b served settled free lowest w nonEmpty target priority preamble duration limit sourced zones wanted obtainable'
    wait zs trim rec0 after lost
  have sourced : Sourced w.p1 src s := by
    cases src <;> exact sourced
  have sounds : ∀ t, src = .tone t → patternEmpty t s = false := by
    rintro t rfl
    exact patternEmpty_eq_false.mpr sourced.2.2.2
  have record : pendingRec (requestedPage (startRequest w) src) (pointed n s) = rec0 := by
    have number : ∀ k : TargetNo, Fin.ofNat 32 k.val = k := by simp
    have pattern : ∀ k : PatternNo, Fin.ofNat 16 k.val = k := by simp
    simp only [pendingRec, requestedPage, startRequest, target, preamble, priority, priorityOf_rank, number, pattern]
    rfl
  have takes : zonesToTake rec0 (pointed n s) = zs := by
    have same : obtainable' = (obtainable pr · (pointed n s)) := rfl
    rw [zonesToTake_pending (wait := wait) rfl rfl]
    simp only [zs, same]
    rfl
  obtain ⟨t, pass, turn⟩ := pass_pageMade (r := requestedPage (startRequest w) src) (settled.pointed n) (by exact free) (by exact sounds)
  rw [record, takes] at turn
  have fresh : ∀ z h, s.pctl.holders.get z = some h → h.page ≠ p := fun z h held e => by
    simpa [e, free] using settled.holders z h held
  have distinct : zs.Nodup := takes ▸ zonesToTake_nodup (floorZones_nodup _ _ _) _
  have preambles : hasPreamble rec0 s = true ↔ b ≠ 0 ∧ nonEmpty b := by simp [hasPreamble, rec0, nonEmpty]
  have code : (if hasPreamble rec0 s = true then 2 else 3) = if b ≠ 0 ∧ nonEmpty b then 2 else 3 := if_congr preambles rfl rfl
  have reply : startReply p t = ⟨.ok, packed [(p.val, 0), (if zs = [] then 1 else if b ≠ 0 ∧ nonEmpty b then 2 else 3, 8),
      (zs.length, 16)], 0⟩ := by
    rw [startReply_turn turn (by simp [pageMade, record]) rfl rfl distinct fresh, ← code]
    rfl
  have accepted := pageStart_accepted (s := pointed n s) free lowest
    (pageRefusal_none (s := pointed n s) free sourced target preamble duration limit zones) (requestSource_sourced sourced)
  rw [makeAccepted_eq pass, reply] at accepted
  have moves := moves_makeAccepted p (requestedPage (startRequest w) src) (pointed n s)
  rw [makeAccepted_eq pass] at moves
  obtain ⟨-, ptu, rqu⟩ := moves.fixed
  have run := exec_pageStart served
  rw [accepted, finishSlot_rqu n _ rqu] at run
  have first : (pageMade p (requestedPage (startRequest w) src) (pointed n s)).ntu = ntuAfter [after .pending] s.ptu s.ntu := by
    have priority : (requestedPage (startRequest w) src).priority = pr := congrArg PageRec.priority record
    rw [pageMade, priority]
    rfl
  have pages := turn.pages
  have ntu := turn.ntu
  rw [if_congr (and_iff_right rfl) rfl rfl] at pages ntu
  have holders : t.pctl.holders = Vector.ofFn fun z => if z ∈ zs then some ⟨p, pr, trim, false⟩ else s.pctl.holders.get z :=
    vector_ext_get fun z => by rw [turn.holders, get_ofFn]; rfl
  refine ⟨_, run, ?_, fun q ne => ⟨?_, ?_⟩, ?_, ?_, turn.kept,
    fun z hz => ⟨(turn.taken z hz).stage, (turn.taken z hz).overrun, (turn.taken z hz).noise⟩, { moves.sameInputs with }, ptu,
    turn.rest.2.1, turn.rest.2.2, rfl⟩
  · rw [← holders]
    exact turn.pctl
  · exact (turn.pages_other ne).trans (by simp [pageMade, ne])
  · obtain ⟨contexts, fetches⟩ := turn.players q ne
    exact ⟨contexts.trans (by simp [pageMade, ne]), fetches⟩
  · split
    · next none =>
      rw [if_neg (not_not.mpr none)] at pages ntu
      have nothing : zs.filterMap (lossOf p (pageMade p (requestedPage (startRequest w) src) (pointed n s))) = [] := by simp [none]
      refine ⟨by simp [pages, pageMade, record], ?_, ?_⟩
      · rw [(turn.stays fun both => both.2 none).1]
        simp [pageMade]
      · rw [ntu, nothing, first, raiseAll_ntuAfter]
        rfl
    · next some =>
      rw [if_pos some] at pages ntu
      refine ⟨?_, turn.begins rfl some, ?_⟩
      · rw [pages, get_putAt, if_pos rfl]
        rfl
      · rw [ntu, first, raiseAll_ntuAfter]
        exact ntuAfter_ntuAfter _ _ s.ptu s.ntu
  · rintro c rfl
    exact turn.entry.trans (by simp [pageMade, requestedPage, entryOf])

end Sys2Proof.Machine
end

section
namespace Sys2Proof.Machine

/-! ### Held zones revised when a wanted set was computed again (R77, R84) -/

/-- The entry of a zone that a page holds, once the page's wanted set is a given one. -/
def revisedHolder (p : PageNo) (wanted : List ZoneNo) (z : ZoneNo) (h : Holder) : Holder :=
  if h.page = p then { h with lettingGo := decide (z ∉ wanted) } else h

/-- The stage of a zone once the wanted set of a page is a given one: it follows an entry that has changed. -/
def revisedStage (p : PageNo) (wanted : List ZoneNo) (s : State) (z : ZoneNo) : ZosZone :=
  match s.pctl.holders.get z with
  | some h =>
    if h.page = p ∧ h.lettingGo ≠ decide (z ∉ wanted) then
      heldStage { h with lettingGo := decide (z ∉ wanted) } (s.amon.get z) (s.zos.zones.get z) s
    else s.zos.zones.get z
  | none => s.zos.zones.get z

/-- A zone that was not being let go leaves the wanted set. -/
def leaves (wanted : List ZoneNo) (s : State) (z : ZoneNo) : Bool :=
  (s.pctl.holders.get z).any fun h => !h.lettingGo && decide (z ∉ wanted)

/-- The state in which some of a page's zones are revised. -/
def zonesRevised (p : PageNo) (wanted : List ZoneNo) (why : ZoneLostReason) (zs : List ZoneNo) (s : State) : State :=
  { s with
    pctl := { s.pctl with holders := Vector.ofFn fun z =>
      if z ∈ zs then (s.pctl.holders.get z).map (revisedHolder p wanted z) else s.pctl.holders.get z }
    zos := { s.zos with zones := Vector.ofFn fun z => if z ∈ zs then revisedStage p wanted s z else s.zos.zones.get z }
    ntu := ntuAfter ((zs.filter (leaves wanted s)).map fun z => .zoneLost p z why none) s.ptu s.ntu }

theorem zonesRevised_nil (p : PageNo) (wanted : List ZoneNo) (why : ZoneLostReason) (s : State) :
    zonesRevised p wanted why [] s = s := by
  have holders : (Vector.ofFn fun z => if z ∈ ([] : List ZoneNo) then (s.pctl.holders.get z).map (revisedHolder p wanted z)
      else s.pctl.holders.get z) = s.pctl.holders := vector_ext_get fun z => by simp
  have zones : (Vector.ofFn fun z => if z ∈ ([] : List ZoneNo) then revisedStage p wanted s z else s.zos.zones.get z)
      = s.zos.zones := vector_ext_get fun z => by simp
  rw [zonesRevised, holders, zones]
  rfl

/-- One zone is let go, taken back, or left as it is. -/
theorem reviseZone_eq {p : PageNo} {r : PageRec} {why : ZoneLostReason} {z : ZoneNo} {h : Holder} {s : State}
    (begun : r.state = .preamble ∨ r.state = .active) (held : s.pctl.holders.get z = some h) (page : h.page = p) :
    reviseZone p r why z s = zonesRevised p r.wanted why [z] s := by
  have holders : (Vector.ofFn fun y => if y ∈ [z] then (s.pctl.holders.get y).map (revisedHolder p r.wanted y)
      else s.pctl.holders.get y) = putAt s.pctl.holders z (some { h with lettingGo := decide (z ∉ r.wanted) }) :=
    vector_ext_get fun y => by
      by_cases e : y = z
      · subst e
        simp [held, revisedHolder, page]
      · simp [e]
  have zones : (Vector.ofFn fun y => if y ∈ [z] then revisedStage p r.wanted s y else s.zos.zones.get y)
      = putAt s.zos.zones z (revisedStage p r.wanted s z) := vector_ext_get fun y => by
    by_cases e : y = z <;> simp [e]
  have same : h.lettingGo = decide (z ∉ r.wanted) →
      { s with
        pctl := { s.pctl with holders := putAt s.pctl.holders z (some { h with lettingGo := decide (z ∉ r.wanted) }) }
        zos := { s.zos with zones := putAt s.zos.zones z (revisedStage p r.wanted s z) } } = s := fun flag => by
    have stage : revisedStage p r.wanted s z = s.zos.zones.get z := by simp [revisedStage, held, flag]
    rw [stage, ← flag, ← held, putAt_self, putAt_self]
  have turned : h.lettingGo ≠ decide (z ∉ r.wanted) → revisedStage p r.wanted s z
      = heldStage { h with lettingGo := decide (z ∉ r.wanted) } (s.amon.get z) (s.zos.zones.get z) s := fun flag => by
    rw [revisedStage, held]
    exact if_pos ⟨page, flag⟩
  rw [zonesRevised, holders, zones]
  cases letting : h.lettingGo with
  | true =>
    have quiet : [z].filter (leaves r.wanted s) = [] := by simp [leaves, held, letting]
    rw [quiet]
    by_cases wants : z ∈ r.wanted
    · rw [turned (by simp [letting, wants])]
      simp only [reviseZone, held, letting, if_true, if_pos (And.intro wants begun), zoneLetting_eq false held]
      simp [wants]
    · have flag : h.lettingGo = decide (z ∉ r.wanted) := by simp [letting, wants]
      simp only [reviseZone, held, letting, if_true, if_neg fun both : z ∈ r.wanted ∧ _ => wants both.1]
      exact (same flag).symm
  | false =>
    by_cases wants : z ∈ r.wanted
    · have quiet : [z].filter (leaves r.wanted s) = [] := by simp [leaves, held, wants]
      rw [quiet]
      simp only [reviseZone, held, letting, if_pos wants, Bool.false_eq_true, if_false]
      exact (same (by simp [letting, wants])).symm
    · have goes : [z].filter (leaves r.wanted s) = [z] := by simp [leaves, held, wants, letting]
      rw [goes, turned (by simp [letting, wants])]
      simp only [reviseZone, held, letting, if_neg wants, Bool.false_eq_true, if_false, raiseNotice_ntuAfter]
      rw [zoneLetting_eq true (by exact held)]
      simp [wants]
      rfl

end Sys2Proof.Machine
end

section
namespace Sys2Proof.Machine

theorem revisedStage_congr {p : PageNo} {wanted : List ZoneNo} {z : ZoneNo} {s t : State}
    (holder : t.pctl.holders.get z = s.pctl.holders.get z) (zone : t.zos.zones.get z = s.zos.zones.get z)
    (amon : t.amon = s.amon) (ptu : t.ptu = s.ptu) : revisedStage p wanted t z = revisedStage p wanted s z := by
  unfold revisedStage
  rw [holder, zone, amon]
  simp only [heldStage_congr ptu]

section Revised

variable (p : PageNo) (wanted : List ZoneNo) (why : ZoneLostReason) (zs : List ZoneNo) (s : State) (z : ZoneNo)

theorem zonesRevised_holder : (zonesRevised p wanted why zs s).pctl.holders.get z
    = if z ∈ zs then (s.pctl.holders.get z).map (revisedHolder p wanted z) else s.pctl.holders.get z := get_ofFn ..

theorem zonesRevised_zone : (zonesRevised p wanted why zs s).zos.zones.get z
    = if z ∈ zs then revisedStage p wanted s z else s.zos.zones.get z := get_ofFn ..

theorem zonesRevised_ntu : (zonesRevised p wanted why zs s).ntu
    = ntuAfter ((zs.filter (leaves wanted s)).map fun z => .zoneLost p z why none) s.ptu s.ntu := by
  simp only [zonesRevised]

theorem zonesRevised_kept : (zonesRevised p wanted why zs s).amon = s.amon ∧ (zonesRevised p wanted why zs s).ptu = s.ptu := by
  simp only [zonesRevised, and_self]

end Revised

section Cons

variable {p : PageNo} {wanted : List ZoneNo} {why : ZoneLostReason} {z : ZoneNo} {zs : List ZoneNo} {s : State}

theorem zonesRevised_holder_other {y : ZoneNo} (ne : y ≠ z) :
    (zonesRevised p wanted why [z] s).pctl.holders.get y = s.pctl.holders.get y := by
  rw [zonesRevised_holder, if_neg (mt List.mem_singleton.mp ne)]

theorem zonesRevised_zone_other {y : ZoneNo} (ne : y ≠ z) :
    (zonesRevised p wanted why [z] s).zos.zones.get y = s.zos.zones.get y := by
  rw [zonesRevised_zone, if_neg (mt List.mem_singleton.mp ne)]

theorem zonesRevised_cons_holders (new : z ∉ zs) : (zonesRevised p wanted why zs (zonesRevised p wanted why [z] s)).pctl.holders
    = (zonesRevised p wanted why (z :: zs) s).pctl.holders := vector_ext_get fun y => by
  rw [zonesRevised_holder, zonesRevised_holder _ _ _ (z :: zs)]
  by_cases e : y = z
  · subst e
    rw [if_neg new, zonesRevised_holder, if_pos (List.mem_singleton_self y), if_pos List.mem_cons_self]
  · rw [zonesRevised_holder_other e]
    simp only [List.mem_cons, e, false_or]

theorem zonesRevised_cons_zones (new : z ∉ zs) : (zonesRevised p wanted why zs (zonesRevised p wanted why [z] s)).zos.zones
    = (zonesRevised p wanted why (z :: zs) s).zos.zones := vector_ext_get fun y => by
  rw [zonesRevised_zone, zonesRevised_zone _ _ _ (z :: zs)]
  by_cases e : y = z
  · subst e
    rw [if_neg new, zonesRevised_zone, if_pos (List.mem_singleton_self y), if_pos List.mem_cons_self]
  · obtain ⟨amon, ptu⟩ := zonesRevised_kept p wanted why [z] s
    rw [zonesRevised_zone_other e, revisedStage_congr (zonesRevised_holder_other e) (zonesRevised_zone_other e) amon ptu]
    simp only [List.mem_cons, e, false_or]

theorem zonesRevised_cons_ntu (new : z ∉ zs) : (zonesRevised p wanted why zs (zonesRevised p wanted why [z] s)).ntu
    = (zonesRevised p wanted why (z :: zs) s).ntu := by
  have going : zs.filter (leaves wanted (zonesRevised p wanted why [z] s)) = zs.filter (leaves wanted s) :=
    List.filter_congr fun y hy => by rw [leaves, leaves, zonesRevised_holder_other (ne_of_mem_of_not_mem hy new)]
  have split : (z :: zs).filter (leaves wanted s) = [z].filter (leaves wanted s) ++ zs.filter (leaves wanted s) := by
    rw [← List.filter_append, List.singleton_append]
  rw [zonesRevised_ntu, going, zonesRevised_ntu _ _ _ [z], zonesRevised_ntu, split, List.map_append, ← ntuAfter_ntuAfter,
    (zonesRevised_kept p wanted why [z] s).2]

/-- Zones are revised one after another. -/
theorem zonesRevised_cons (new : z ∉ zs) :
    zonesRevised p wanted why zs (zonesRevised p wanted why [z] s) = zonesRevised p wanted why (z :: zs) s := by
  have whole : ∀ zs s, zonesRevised p wanted why zs s = { s with
      pctl := { s.pctl with holders := (zonesRevised p wanted why zs s).pctl.holders }
      zos := { s.zos with zones := (zonesRevised p wanted why zs s).zos.zones }
      ntu := (zonesRevised p wanted why zs s).ntu } := fun zs s => by simp only [zonesRevised]
  rw [whole zs, zonesRevised_cons_holders new, zonesRevised_cons_zones new, zonesRevised_cons_ntu new, whole (z :: zs), whole [z]]

end Cons

/-- All held zones of a page are revised in turn. -/
theorem foldl_reviseZone {p : PageNo} {r : PageRec} {why : ZoneLostReason} (begun : r.state = .preamble ∨ r.state = .active)
    {zs : List ZoneNo} (distinct : zs.Nodup) {s : State}
    (held : ∀ z ∈ zs, ∃ h, s.pctl.holders.get z = some h ∧ h.page = p) :
    zs.foldl (fun s z => reviseZone p r why z s) s = zonesRevised p r.wanted why zs s := by
  induction zs generalizing s with
  | nil => exact (zonesRevised_nil ..).symm
  | cons z zs ih =>
    obtain ⟨new, distinct⟩ := List.nodup_cons.mp distinct
    obtain ⟨h, holder, page⟩ := held z (by simp)
    rw [List.foldl_cons, reviseZone_eq begun holder page, ih distinct, zonesRevised_cons new]
    intro y hy
    have ne : y ≠ z := fun e => new (e ▸ hy)
    simpa [zonesRevised, ne] using held y (by simp [hy])

/-! ### A wanted set computed again, of a page that is alone (R77, R84) -/

/-- A page that is in PREAMBLE or ACTIVE, is alone in the Page Order, and of whose zones none is silent; it is letting go those it does
not want. -/
structure HoldsAlone (p : PageNo) (r : PageRec) (s : State) : Prop where
  page : s.pctl.pages.get p = some r
  order : s.pctl.pageOrder = [p]
  begun : r.state = .preamble ∨ r.state = .active
  entries : ∀ z h, s.pctl.holders.get z = some h → h.page = p → h.priority = r.priority ∧ (h.lettingGo = true ↔ z ∉ r.wanted)
  audible : ∀ z ∈ heldZones p s, (s.zos.zones.get z).ga ≠ 0

/-- The state in which a page's wanted set has been computed again. -/
def refreshed (p : PageNo) (r : PageRec) (why : ZoneLostReason) (s : State) : State :=
  zonesRevised p (wantedOf r s) why (heldZones p s) (putPage p (some { r with wanted := wantedOf r s }) s)

theorem livePage_of_begun {r : PageRec} (begun : r.state = .preamble ∨ r.state = .active) : livePage r = true := by
  obtain h | h := begun <;> simp [livePage, h]

theorem wantedOf_eq {r : PageRec} {s : State} (begun : r.state = .preamble ∨ r.state = .active) :
    wantedOf r s = floorZones r.target r.priority s := if_pos (livePage_of_begun begun)

section Refreshed

variable {p : PageNo} {r : PageRec} {why : ZoneLostReason} {s : State}

theorem refreshed_holders (z : ZoneNo) :
    (refreshed p r why s).pctl.holders.get z = (s.pctl.holders.get z).map (revisedHolder p (wantedOf r s) z) := by
  have holders : (refreshed p r why s).pctl.holders.get z
      = if z ∈ heldZones p s then (s.pctl.holders.get z).map (revisedHolder p (wantedOf r s) z) else s.pctl.holders.get z := by
    simp [refreshed, zonesRevised, putPage]
  rw [holders]
  split
  · rfl
  · next out =>
    cases held : s.pctl.holders.get z with
    | none => rfl
    | some h =>
      have other : h.page ≠ p := fun page => out (mem_heldZones.mpr ⟨h, held, page⟩)
      simp [revisedHolder, other]

theorem refreshed_pctl : (refreshed p r why s).pctl = { s.pctl with
    pages := putAt s.pctl.pages p (some { r with wanted := wantedOf r s })
    holders := Vector.ofFn fun z => (s.pctl.holders.get z).map (revisedHolder p (wantedOf r s) z) } := by
  have holders : (refreshed p r why s).pctl.holders
      = Vector.ofFn fun z => (s.pctl.holders.get z).map (revisedHolder p (wantedOf r s) z) :=
    vector_ext_get fun z => by rw [refreshed_holders, get_ofFn]
  rw [← holders]
  rfl

theorem refreshed_zone (z : ZoneNo) : (refreshed p r why s).zos.zones.get z = revisedStage p (wantedOf r s) s z := by
  have zone : (refreshed p r why s).zos.zones.get z
      = if z ∈ heldZones p s then revisedStage p (wantedOf r s) s z else s.zos.zones.get z := by
    rw [← revisedStage_congr (s := s) (t := putPage p (some { r with wanted := wantedOf r s }) s) rfl rfl rfl rfl]
    simp only [refreshed, zonesRevised, get_ofFn]
    rfl
  rw [zone]
  split
  · rfl
  · next out =>
    cases held : s.pctl.holders.get z with
    | none => simp only [revisedStage, held]
    | some h =>
      have other : h.page ≠ p := fun page => out (mem_heldZones.mpr ⟨h, held, page⟩)
      simp only [revisedStage, held]
      exact (if_neg fun both => other both.1).symm

/-- The stage of a zone whose entry is turned. -/
theorem revisedStage_turned {wanted : List ZoneNo} {z : ZoneNo} {h : Holder} (held : s.pctl.holders.get z = some h) (page : h.page = p)
    (turned : h.lettingGo ≠ decide (z ∉ wanted)) : revisedStage p wanted s z
      = heldStage { h with lettingGo := decide (z ∉ wanted) } (s.amon.get z) (s.zos.zones.get z) s := by
  rw [revisedStage, held]
  exact if_pos ⟨page, turned⟩

/-- The stage of a zone whose entry stays. -/
theorem revisedStage_same {wanted : List ZoneNo} {z : ZoneNo}
    (same : ∀ h, s.pctl.holders.get z = some h → h.page = p → h.lettingGo = decide (z ∉ wanted)) :
    revisedStage p wanted s z = s.zos.zones.get z := by
  unfold revisedStage
  split
  · next h held => exact if_neg fun both => both.2 (same h held both.1)
  · rfl

theorem refreshed_ntu : (refreshed p r why s).ntu
    = ntuAfter (((heldZones p s).filter (leaves (wantedOf r s) s)).map fun z => .zoneLost p z why none) s.ptu s.ntu := rfl

/-- Nothing but the page table, the stages and the notices changes. -/
theorem refreshed_kept : (refreshed p r why s).ptu = s.ptu ∧ (refreshed p r why s).deng = s.deng ∧ (refreshed p r why s).lmon = s.lmon
    ∧ (refreshed p r why s).amon = s.amon ∧ (refreshed p r why s).ctp = s.ctp ∧ (refreshed p r why s).rqu = s.rqu :=
  ⟨rfl, rfl, rfl, rfl, rfl, rfl⟩

/-- No zone that is held leaves the wanted set or comes back to it: the record takes the set, and that is all. -/
theorem refreshed_quiet (alone : HoldsAlone p r s) (same : ∀ z ∈ heldZones p s, (z ∈ wantedOf r s ↔ z ∈ r.wanted)) :
    refreshed p r why s = putPage p (some { r with wanted := wantedOf r s }) s := by
  have flag : ∀ z h, s.pctl.holders.get z = some h → h.page = p → h.lettingGo = decide (z ∉ wantedOf r s) := fun z h held page => by
    have entry := (alone.entries z h held page).2
    rw [← same z (mem_heldZones.mpr ⟨h, held, page⟩)] at entry
    exact Bool.eq_iff_iff.mpr (by simpa using entry)
  have holders : (refreshed p r why s).pctl.holders = s.pctl.holders := vector_ext_get fun z => by
    rw [refreshed_holders]
    cases held : s.pctl.holders.get z with
    | none => rfl
    | some h =>
      rw [Option.map_some, revisedHolder]
      split
      · next page => rw [← flag z h held page]
      · rfl
  have zones : (refreshed p r why s).zos.zones = s.zos.zones := vector_ext_get fun z => by
    rw [refreshed_zone, revisedStage_same (flag z)]
  have quiet : (heldZones p s).filter (leaves (wantedOf r s) s) = [] := List.filter_eq_nil_iff.mpr fun z hz => by
    obtain ⟨h, held, page⟩ := mem_heldZones.mp hz
    simp [leaves, held, flag z h held page]
  have notices : (refreshed p r why s).ntu = s.ntu := by rw [refreshed_ntu, quiet, List.map_nil, ntuAfter_nil]
  have parts : ∀ h x n, (refreshed p r why s).pctl.holders = h → (refreshed p r why s).zos.zones = x → (refreshed p r why s).ntu = n →
      refreshed p r why s = { putPage p (some { r with wanted := wantedOf r s }) s with
        pctl := { (putPage p (some { r with wanted := wantedOf r s }) s).pctl with holders := h }
        zos := { s.zos with zones := x }, ntu := n } := by
    rintro _ _ _ rfl rfl rfl
    rfl
  exact parts _ _ _ holders zones notices

/-- What PCTL makes of the page. -/
theorem refreshPage_eq (alone : HoldsAlone p r s) : (refreshPage why p s).1 = refreshed p r why s
    ∧ ∀ t ∈ (refreshPage why p s).2, t = .pass ∨ ∃ z ∈ heldZones p s, t = .zero z := by
  have held : ∀ z ∈ heldZones p s, ∃ h, (putPage p (some { r with wanted := wantedOf r s }) s).pctl.holders.get z = some h ∧ h.page = p :=
    fun z hz => mem_heldZones.mp hz
  simp only [refreshPage, alone.page, livePage_of_begun alone.begun, if_true]
  split
  · next still =>
    refine ⟨?_, fun t ht => nomatch ht⟩
    rw [refreshed_quiet alone fun z _ => by rw [still], still]
    have record : (some r : Option PageRec) = s.pctl.pages.get p := alone.page.symm
    show s = putPage p (some r) s
    rw [record, putPage, putAt_self]
  · refine ⟨?_, fun t ht => ?_⟩
    · rw [foldl_reviseZone (s := putPage p _ s) (by exact alone.begun) (heldZones_nodup p s) held]
      rfl
    obtain zero | pass := List.mem_append.mp ht
    · obtain ⟨z, hz, rfl⟩ := List.mem_map.mp zero
      exact .inr ⟨z, hz, rfl⟩
    · exact .inl (List.mem_singleton.mp pass)

theorem refreshed_pass_idle (alone : HoldsAlone p r s) (wants : ∀ z ∈ wantedOf r s, z ∈ heldZones p s) :
    acquisitionPass (refreshed p r why s) = (refreshed p r why s, []) := by
  have page : (refreshed p r why s).pctl.pages.get p = some { r with wanted := wantedOf r s } := by simp [refreshed_pctl]
  have order : (refreshed p r why s).pctl.pageOrder = [p] := alone.order
  rw [acquisitionPass, passOrder_alone order page (livePage_of_begun alone.begun)]
  refine collect_idle fun y hy => visitPage_idle fun v hv _ => ?_
  rw [List.mem_singleton.mp hy, page] at hv
  obtain rfl := Option.some.inj hv
  refine zonesToTake_nil_of_held (by rintro e; obtain h | h := alone.begun <;> simp_all) fun z hz => ?_
  obtain ⟨h, held, mine⟩ := mem_heldZones.mp (wants z hz)
  have now : (refreshed p r why s).pctl.holders.get z = some { h with lettingGo := decide (z ∉ wantedOf r s) } := by
    simp [refreshed_holders, held, revisedHolder, mine]
  exact obtainable_held now (by rw [(alone.entries z h held mine).1])

theorem refreshed_zero_idle (alone : HoldsAlone p r s) {z : ZoneNo} (mem : z ∈ heldZones p s) :
    zeroReport z (refreshed p r why s) = (refreshed p r why s, []) := zeroReport_idle fun k hk letting => by
  rw [refreshed_holders] at hk
  obtain ⟨h, held, mine⟩ := mem_heldZones.mp mem
  have loud := alone.audible z mem
  rw [held, Option.map_some, revisedHolder, if_pos mine, Option.some.injEq] at hk
  subst hk
  rw [refreshed_zone]
  by_cases turned : h.lettingGo = decide (z ∉ wantedOf r s)
  · rwa [revisedStage_same fun k hk _ => by rw [← Option.some.inj (held.symm.trans hk), turned]]
  · rw [revisedStage_turned held mine turned]
    have letting : decide (z ∉ wantedOf r s) = true := letting
    rw [letting]
    simpa [heldStage] using loud

/-- Nothing is left to do once the wanted set has been computed again. -/
theorem settle_refreshPage (alone : HoldsAlone p r s) (wants : ∀ z ∈ wantedOf r s, z ∈ heldZones p s) {ts : List PageTask}
    (passes : ∀ t ∈ ts, t = .pass) :
    settle (ts ++ (collect (refreshPage why) [p] s).2) (collect (refreshPage why) [p] s).1 = refreshed p r why s := by
  obtain ⟨state, tasks⟩ := refreshPage_eq (why := why) alone
  rw [collect_singleton, state]
  have idle : pageTask .pass (refreshed p r why s) = (refreshed p r why s, []) := refreshed_pass_idle alone wants
  refine runTasks_idle (fun t ht => ?_) _
  obtain before | after := List.mem_append.mp ht
  · rw [passes t before, idle]
  · obtain rfl | ⟨z, hz, rfl⟩ := tasks t after
    · exact idle
    · rw [pageTask, refreshed_zero_idle alone hz]

theorem refreshWanted_alone {concerned : PageRec → Bool} (alone : HoldsAlone p r s) (wants : ∀ z ∈ wantedOf r s, z ∈ heldZones p s)
    (concerns : concerned r = true) : refreshWanted why concerned s = refreshed p r why s := by
  have pages : (s.pctl.pageOrder.filter fun q => (s.pctl.pages.get q).any concerned) = [p] := by
    simp [alone.order, alone.page, concerns]
  have asked : (fun q => match s.pctl.pages.get q with
      | some r => concerned r
      | none => false) = fun q => (s.pctl.pages.get q).any concerned := funext fun q => by
    cases s.pctl.pages.get q <;> rfl
  have settled := settle_refreshPage (why := why) alone wants (ts := []) (fun _ h => nomatch h)
  rw [← pages, ← asked] at settled
  exact settled

end Refreshed

end Sys2Proof.Machine
end

section
namespace Sys2Proof.Machine

/-! ### A page's target is written (R75, R77, R84) -/

/-- A notice depends on the PTU by its mode and clocks alone. -/
theorem ntuAfter_congr {u v : Ptu} (mode : u.mode = v.mode) (time : u.plantTime = v.plantTime) (ns : List Notice) (q : Ntu) :
    ntuAfter ns u q = ntuAfter ns v q := by
  induction ns generalizing q with
  | nil => rfl
  | cons n ns ih =>
    have one : ntuAfter [n] u q = ntuAfter [n] v q := by
      simp only [ntuAfter, raiseAll, List.foldl_cons, List.foldl_nil, raiseNotice, mode, time]
      split
      · split <;> rfl
      · rfl
    rw [ntuAfter_cons, ntuAfter_cons n ns v, one, ih]

section Target

variable {p : PageNo} {r : PageRec} {s : State} {set : BitVec 24}

/-- The state with a target's zone set. -/
def targetTaken (x : TargetNo) (set : BitVec 24) (s : State) : State :=
  { s with pctl := { s.pctl with targets := putAt s.pctl.targets x set } }

/-- The wanted set of a page whose target is written. -/
theorem wantedOf_targetTaken (begun : r.state = .preamble ∨ r.state = .active) : wantedOf r (targetTaken r.target set s)
    = (List.finRange 24).filter fun z => set.getLsbD z.val && s.pctl.enabled.get z
        && !(r.priority = .background && (s.amon.get z).window = .loud) := by
  rw [wantedOf_eq begun]
  refine List.filter_congr fun z _ => ?_
  rw [targetTaken, get_putAt, if_pos rfl]

/-- The wanted zones of a page that holds them all, as it lists its zones. -/
theorem wanted_of_held (begun : r.state = .preamble ∨ r.state = .active) (current : r.wanted = wantedOf r s)
    (holds : ∀ z ∈ r.wanted, z ∈ heldZones p s) : r.wanted = (heldZones p s).filter (· ∈ r.wanted) := by
  have ascending : r.wanted = (List.finRange 24).filter (· ∈ r.wanted) := by
    rw [current, wantedOf_eq begun]
    exact List.filter_congr fun z _ => by simp [floorZones]
  rw [heldZones, List.filter_filter]
  refine ascending.trans (List.filter_congr fun z _ => ?_)
  by_cases wants : z ∈ r.wanted
  · obtain ⟨h, held, page⟩ := mem_heldZones.mp (holds z wants)
    simp [wants, held, page]
  · simp [wants]

/-- The zones that leave are the wanted ones that are wanted no more. -/
theorem held_leaves (alone : HoldsAlone p r s) (current : r.wanted = wantedOf r s) (holds : ∀ z ∈ r.wanted, z ∈ heldZones p s)
    (wanted : List ZoneNo) : (heldZones p s).filter (leaves wanted s) = r.wanted.filter (· ∉ wanted) := by
  have split : r.wanted.filter (· ∉ wanted) = ((heldZones p s).filter (· ∈ r.wanted)).filter (· ∉ wanted) :=
    congrArg _ (wanted_of_held alone.begun current holds)
  rw [split, List.filter_filter]
  refine List.filter_congr fun z hz => ?_
  obtain ⟨h, held, page⟩ := mem_heldZones.mp hz
  have kept : (!h.lettingGo) = decide (z ∈ r.wanted) := by
    have entry := (alone.entries z h held page).2
    cases letting : h.lettingGo <;> simp_all
  simp [leaves, held, kept, Bool.and_comm]

/-- A page target is written whose page is alone and holds what it then wants. -/
theorem pageTargetWrite_alone (ready : s.ptu.mode = .ready) (alone : HoldsAlone p r s) (current : r.wanted = wantedOf r s)
    (holds : ∀ z ∈ r.wanted, z ∈ heldZones p s) (d : Word) (be : ByteEnables) (port : PortFree s) :
    let u := writeTaken (.target r.target) d be s
    let set := (copyOf (.target r.target) u).extractLsb' 0 24
    let wanted := (List.finRange 24).filter fun z => set.getLsbD z.val && s.pctl.enabled.get z
      && !(r.priority = .background && (s.amon.get z).window = .loud)
    (∀ z ∈ wanted, z ∈ heldZones p s) →
    ∃ t, exec (.pageTargetWrite r.target d be) s = .next t
      ∧ t.pctl = { s.pctl with
          targets := putAt s.pctl.targets r.target set
          pages := putAt s.pctl.pages p (some { r with wanted := wanted })
          holders := Vector.ofFn fun z => (s.pctl.holders.get z).map fun h =>
            if h.page = p then { h with lettingGo := decide (z ∉ wanted) } else h }
      ∧ (∀ z h, s.pctl.holders.get z = some h → h.page = p → (z ∈ wanted ↔ z ∉ r.wanted) →
          t.zos.zones.get z = heldStage { h with lettingGo := decide (z ∉ wanted) } (s.amon.get z) (s.zos.zones.get z) s)
      ∧ (∀ z, z ∉ heldZones p s ∨ (z ∈ wanted ↔ z ∈ r.wanted) → t.zos.zones.get z = s.zos.zones.get z)
      ∧ t.ntu = (raiseAll ((r.wanted.filter (· ∉ wanted)).map fun z => .zoneLost p z .target none) s).ntu
      ∧ t.ptu = u.ptu ∧ t.deng = s.deng ∧ t.lmon = s.lmon ∧ t.amon = s.amon ∧ t.ctp = s.ctp ∧ t.rqu = s.rqu := by
  intro u set wanted wants
  have alone' : HoldsAlone p r (targetTaken r.target set u) :=
    ⟨alone.page, alone.order, alone.begun, alone.entries, alone.audible⟩
  have set' : wantedOf r (targetTaken r.target set u) = wanted := wantedOf_targetTaken alone.begun
  have acts : targetWritten r.target u = refreshed p r .target (targetTaken r.target set u) := by
    have bits : ∀ w : Word, w.setWidth 24 = w.extractLsb' 0 24 := fun w => BitVec.setWidth_eq_extractLsb' (by omega)
    show refreshWanted .target _ (targetTaken r.target ((copyOf (.target r.target) u).setWidth 24) u) = _
    rw [bits]
    exact refreshWanted_alone alone' (by rw [set']; exact wants) (by simp)
  have going : (heldZones p (targetTaken r.target set u)).filter (leaves wanted (targetTaken r.target set u))
      = r.wanted.filter (· ∉ wanted) := held_leaves alone current holds wanted
  obtain ⟨ptu, deng, lmon, amon, ctp, rqu⟩ := refreshed_kept (p := p) (r := r) (why := .target) (s := targetTaken r.target set u)
  refine ⟨_, (congrArg Host.Outcome.next (access_owner ready port (by simp) (owns_targetWritten r.target u))).trans
    (congrArg Host.Outcome.next acts), ?_, fun z h held page turns => ?_, fun z stays => ?_, ?_, ptu, deng, lmon, amon, ctp, rqu⟩
  · rw [refreshed_pctl, set']
    rfl
  · have turned : h.lettingGo ≠ decide (z ∉ wanted) := fun same => by
      have entry := (alone.entries z h held page).2
      rw [same, decide_eq_true_eq] at entry
      tauto
    rw [refreshed_zone, set', revisedStage_turned (by exact held) page turned]
    rfl
  · rw [refreshed_zone, set', revisedStage_same]
    · rfl
    · intro h held page
      have same := stays.resolve_left fun out => out (mem_heldZones.mpr ⟨h, held, page⟩)
      have entry := (alone.entries z h held page).2
      rw [← same] at entry
      exact Bool.eq_iff_iff.mpr (by simpa using entry)
  · rw [refreshed_ntu, set', going, raiseAll_ntuAfter]
    exact ntuAfter_congr (u := u.ptu) (v := s.ptu) rfl rfl _ _

end Target

end Sys2Proof.Machine
end

section
namespace Sys2Proof.Machine

/-! ### A held zone is disabled (R76, R77, R85) -/

section Disabled

variable {p : PageNo} {r : PageRec} {z : ZoneNo} {h : Holder} {s : State}

/-- The zone's enable flag is clear. -/
def enableCleared (z : ZoneNo) (s : State) : State :=
  { s with pctl := { s.pctl with enabled := putAt s.pctl.enabled z false } }

/-- ZONE_LOST of a zone that is disabled: a zone being let go has been reported already. -/
def disabledNotices (p : PageNo) (z : ZoneNo) (h : Holder) : List Notice :=
  if h.lettingGo = true then [] else [.zoneLost p z .disabled none]

/-- The state in which a disabled zone is free. -/
def zoneDisabled (p : PageNo) (z : ZoneNo) (h : Holder) (s : State) : State :=
  { zoneLeft z h (enableCleared z s) with ntu := ntuAfter (disabledNotices p z h) s.ptu s.ntu }

theorem disableHeld_eq (alone : HoldsAlone p r s) (held : s.pctl.holders.get z = some h) (page : h.page = p) :
    disableHeld z (enableCleared z s) = (zoneDisabled p z h s, [.pass]) := by
  have holder : (enableCleared z s).pctl.holders.get z = some h := held
  have record : (enableCleared z s).pctl.pages.get p = some r := alone.page
  have going : r.state ≠ .releasing := by obtain h | h := alone.begun <;> simp [h]
  have told : (if (!h.lettingGo) = true then raiseNotice (.zoneLost p z .disabled none) (enableCleared z s) else enableCleared z s)
      = { enableCleared z s with ntu := ntuAfter (disabledNotices p z h) s.ptu s.ntu } := by
    rw [raiseNotice_ntuAfter, disabledNotices]
    cases h.lettingGo <;> rfl
  simp only [disableHeld, holder, page, record, livePage_of_begun alone.begun, Bool.and_true, told]
  have left : zoneLeft z h { enableCleared z s with ntu := ntuAfter (disabledNotices p z h) s.ptu s.ntu } = zoneDisabled p z h s := rfl
  have record' : (zoneDisabled p z h s).pctl.pages.get p = some r := alone.page
  have freed : freeIfEmptied p (zoneDisabled p z h s) = (zoneDisabled p z h s, []) := by
    rw [freeIfEmptied_eq record' fun releasing => absurd releasing going, if_neg fun both => going both.1]
  rw [zoneFreed_eq (s := { enableCleared z s with ntu := ntuAfter (disabledNotices p z h) s.ptu s.ntu }) held, left, freed]
  rfl

theorem zoneDisabled_holder (y : ZoneNo) :
    (zoneDisabled p z h s).pctl.holders.get y = if y = z then none else s.pctl.holders.get y := get_putAt ..

theorem mem_heldZones_zoneDisabled {y : ZoneNo} : y ∈ heldZones p (zoneDisabled p z h s) ↔ y ≠ z ∧ y ∈ heldZones p s := by
  simp only [mem_heldZones, zoneDisabled_holder]
  by_cases e : y = z <;> simp [e]

theorem zoneDisabled_alone (alone : HoldsAlone p r s) : HoldsAlone p r (zoneDisabled p z h s) where
  page := alone.page
  order := alone.order
  begun := alone.begun
  entries y k hk page := by
    rw [zoneDisabled_holder] at hk
    split at hk
    · cases hk
    · exact alone.entries y k hk page
  audible y hy := by
    obtain ⟨ne, hy⟩ := mem_heldZones_zoneDisabled.mp hy
    have zone : (zoneDisabled p z h s).zos.zones.get y = s.zos.zones.get y := by simp [zoneDisabled, zoneLeft, enableCleared, ne]
    rw [zone]
    exact alone.audible y hy

theorem thawed_window (h : Holder) (a : AmonZone) (s : State) : (thawed h a s).window = a.window := by
  unfold thawed
  split <;> rfl

theorem thawed_fields (h : Holder) (a : AmonZone) (s : State) : (thawed h a s).fields = a.fields := by
  unfold thawed
  split <;> rfl

theorem wantedOf_zoneDisabled (alone : HoldsAlone p r s) (current : r.wanted = wantedOf r s) :
    wantedOf r (zoneDisabled p z h s) = r.wanted.filter (· ≠ z) := by
  have window : ∀ y, ((zoneDisabled p z h s).amon.get y).window = (s.amon.get y).window := fun y => by
    have amon : (zoneDisabled p z h s).amon = putAt s.amon z (thawed h (s.amon.get z) (enableCleared z s)) := by
      simp only [zoneDisabled, zoneLeft, enableCleared]
    rw [amon, get_putAt]
    split
    · next e => rw [thawed_window, e]
    · rfl
  have enabled : ∀ y, (zoneDisabled p z h s).pctl.enabled.get y = if y = z then false else s.pctl.enabled.get y :=
    fun y => get_putAt ..
  rw [current, wantedOf_eq alone.begun, wantedOf_eq alone.begun, floorZones, floorZones, List.filter_filter]
  refine List.filter_congr fun y _ => ?_
  rw [window, enabled]
  by_cases e : y = z
  · simp [e]
  · rw [if_neg e, decide_eq_true e, Bool.true_and]
    rfl

/-- The state in which a disabled zone is free and its holder no longer wants it. -/
def zoneRevoked (p : PageNo) (r : PageRec) (z : ZoneNo) (h : Holder) (s : State) : State :=
  putPage p (some { r with wanted := r.wanted.filter (· ≠ z) }) (zoneDisabled p z h s)

theorem zoneRevoked_amon (r : PageRec) (s : State) : (zoneRevoked p r z h s).amon = (zoneDisabled p z h s).amon := rfl

theorem zoneRevoked_zos (r : PageRec) (s : State) : (zoneRevoked p r z h s).zos = (zoneDisabled p z h s).zos := rfl

/-- PCTL frees the zone, and the page no longer wants it. -/
theorem setZoneEnable_disabled (alone : HoldsAlone p r s) (current : r.wanted = wantedOf r s)
    (holds : ∀ z ∈ r.wanted, z ∈ heldZones p s) (held : s.pctl.holders.get z = some h) (page : h.page = p)
    (on : s.pctl.enabled.get z = true) : setZoneEnable z false s = zoneRevoked p r z h s := by
  have alone' := zoneDisabled_alone (z := z) (h := h) alone
  have wanted := wantedOf_zoneDisabled (z := z) (h := h) alone current
  have off : s.pctl.enabled.get z ≠ false := by simp [on]
  have order : (zoneDisabled p z h s).pctl.pageOrder = [p] := alone.order
  have acts : setZoneEnable z false s
      = settle ([.pass] ++ (collect (refreshPage .disabled) [p] (zoneDisabled p z h s)).2)
        (collect (refreshPage .disabled) [p] (zoneDisabled p z h s)).1 := by
    rw [setZoneEnable, if_neg off]
    simp only [Bool.false_eq_true, if_false]
    have disabled := disableHeld_eq alone held page
    rw [enableCleared] at disabled
    rw [disabled, order]
  rw [acts, settle_refreshPage alone' (fun y hy => ?_) (by simp), refreshed_quiet alone' fun y hy => ?_, wanted, zoneRevoked]
  · rw [wanted]
    simp [(mem_heldZones_zoneDisabled.mp hy).1]
  · rw [wanted] at hy
    obtain ⟨wants, ne⟩ := List.mem_filter.mp hy
    exact mem_heldZones_zoneDisabled.mpr ⟨by simpa using ne, holds y wants⟩

/-- AMON keeps the freeze of a NORMAL zone whose record is written with the fields it has. -/
theorem noiseTaken_normal {a : AmonZone} (window : a.window = .normal) :
    (noiseTaken a.fields a).window = .normal ∧ (noiseTaken a.fields a).freeze = a.freeze := by
  refine ⟨?_, rfl⟩
  rw [noiseTaken_eq]
  simp [window]

/-- ZOS has nothing to do for a free zone whose gain fields are written as they are. -/
theorem gainTaken_free (a : AmonZone) (now : Nat) {x : ZosZone} (ga : x.ga = 0) (gt : x.gt = 0) (timer : x.rampAt = none) :
    gainTaken none a now x.gain x = x := by
  cases x
  simp_all [gainTaken, regained, targetGain, emergencyHeld, rampTimer]

theorem zosWritten_free {v : State} (ready : v.ptu.mode = .ready) (free : v.pctl.holders.get z = none)
    (ga : (v.zos.zones.get z).ga = 0) (gt : (v.zos.zones.get z).gt = 0) (timer : (v.zos.zones.get z).rampAt = none) :
    zosWritten z (v.zos.zones.get z).gain [] v = v := by
  rw [zosWritten_eq ready (fun k hk => nomatch free.symm.trans hk), free, gainTaken_free _ _ ga gt timer, putAt_self]
  rfl

/-- A free zone's record is written with the fields it has: AMON alone takes them. -/
theorem recordWritten_free {v : State} (ready : v.ptu.mode = .ready) (free : v.pctl.holders.get z = none)
    (window : (v.amon.get z).window = .normal) (ga : (v.zos.zones.get z).ga = 0) (gt : (v.zos.zones.get z).gt = 0)
    (timer : (v.zos.zones.get z).rampAt = none) :
    zosWritten z (v.zos.zones.get z).gain [] (amonWritten z (v.amon.get z).fields [] v)
      = { v with amon := putAt v.amon z (noiseTaken (v.amon.get z).fields (v.amon.get z)) } := by
  have normal := (noiseTaken_normal window).1
  have same : (noiseTaken (v.amon.get z).fields (v.amon.get z)).window = (v.amon.get z).window := by rw [normal, window]
  have noise : amonWritten z (v.amon.get z).fields [] v
      = { v with amon := putAt v.amon z (noiseTaken (v.amon.get z).fields (v.amon.get z)) } := by
    rw [amonWritten_eq ready (.inl (by rw [same])), stageHeard, if_pos same, windowChange, if_pos same, putAt_self]
    rfl
  rw [noise]
  exact zosWritten_free (v := { v with amon := putAt v.amon z (noiseTaken (v.amon.get z).fields (v.amon.get z)) }) ready free ga gt timer

/-- A zone record is written that disables the zone and changes no other field. -/
theorem zoneRecordWrite_disabled (ready : s.ptu.mode = .ready) (alone : HoldsAlone p r s) (current : r.wanted = wantedOf r s)
    (holds : ∀ z ∈ r.wanted, z ∈ heldZones p s) (d : Word) (be : ByteEnables) (port : PortFree s)
    (held : s.pctl.holders.get z = some h) (page : h.page = p) (on : s.pctl.enabled.get z = true)
    (window : (s.amon.get z).window = .normal) :
    let u := writeTaken (.zone z 0) d be s
    let word := fun i => copyOf (.zone z i) u
    (word 0).getLsbD 0 = false → decodeAmon (word 0) (word 2) (word 3) = (s.amon.get z).fields →
    decodeGain (word 0) (word 1) = (s.zos.zones.get z).gain → amonFaults (word 2) (word 3) = [] →
    gainFaults (word 0) (word 1) = [] →
    ∃ t, exec (.zoneRecordWrite z 0 d be) s = .next t
      ∧ t.pctl = { s.pctl with
          enabled := putAt s.pctl.enabled z false, holders := putAt s.pctl.holders z none
          pages := putAt s.pctl.pages p (some { r with wanted := r.wanted.filter (· ≠ z) }) }
      ∧ t.zos = (zoneLeft z h s).zos ∧ t.ctp = (zoneLeft z h s).ctp
      ∧ (t.amon.get z).freeze = (thawed h (s.amon.get z) s).freeze ∧ (∀ y, y ≠ z → t.amon.get y = s.amon.get y)
      ∧ t.ntu = (raiseAll (if h.lettingGo = true then [] else [.zoneLost p z .disabled none]) s).ntu
      ∧ t.deng = s.deng ∧ t.lmon = s.lmon ∧ t.rqu = s.rqu := by
  intro u word flag fields gain noFault noGainFault
  have alone' : HoldsAlone p r u := ⟨alone.page, alone.order, alone.begun, alone.entries, alone.audible⟩
  have disabled := setZoneEnable_disabled (s := u) alone' current holds held page on
  have enable : enableWritten z 0 d be s = zoneRevoked p r z h u := by
    rw [enableWritten, if_pos rfl, ← disabled]
    exact congrArg (fun b => setZoneEnable z b u) flag
  have parts : exec (.zoneRecordWrite z 0 d be) s = .next
      (zosWritten z (s.zos.zones.get z).gain [] (amonWritten z (s.amon.get z).fields [] (zoneRevoked p r z h u))) := by
    have fields : noiseFields z 0 d be s = (s.amon.get z).fields := fields
    have gain : gainFields z 0 d be s = (s.zos.zones.get z).gain := gain
    have noFault : amonFaults (zoneWord z 0 d be s 2) (zoneWord z 0 d be s 3) = [] := noFault
    have noGainFault : gainFaults (zoneWord z 0 d be s 0) (zoneWord z 0 d be s 1) = [] := noGainFault
    rw [exec_zoneRecordWrite z 0 d be ready port, zoneRecordWritten_parts, enable, fields, gain, noFault, noGainFault]
  have noise : (zoneDisabled p z h u).amon.get z = thawed h (s.amon.get z) s := (get_putAt ..).trans (if_pos rfl)
  have stage : (zoneDisabled p z h u).zos.zones.get z = { s.zos.zones.get z with ga := 0, gt := 0, rampAt := none, fifo := [] } :=
    (get_putAt ..).trans (if_pos rfl)
  have fields' : (thawed h (s.amon.get z) s).fields = (s.amon.get z).fields := thawed_fields h _ s
  have done : zosWritten z (s.zos.zones.get z).gain [] (amonWritten z (s.amon.get z).fields [] (zoneRevoked p r z h u)) = { zoneRevoked p r z h u with
        amon := putAt (zoneDisabled p z h u).amon z (noiseTaken (s.amon.get z).fields (thawed h (s.amon.get z) s)) } := by
    have holder : (zoneDisabled p z h u).pctl.holders.get z = none := (zoneDisabled_holder z).trans (if_pos rfl)
    have free := recordWritten_free (v := zoneRevoked p r z h u) ready holder
    rw [zoneRevoked_amon, zoneRevoked_zos, noise, stage, fields'] at free
    exact free ((thawed_window ..).trans window) rfl rfl rfl
  refine ⟨_, parts.trans (congrArg Host.Outcome.next done), rfl, rfl, rfl, ?_, fun y ne => ?_, ?_, rfl, rfl, rfl⟩
  · rw [get_putAt, if_pos rfl]
    rfl
  · rw [get_putAt, if_neg ne]
    exact (get_putAt ..).trans (if_neg ne)
  · rw [raiseAll_ntuAfter]
    exact ntuAfter_congr (u := u.ptu) (v := s.ptu) rfl rfl _ _

end Disabled

end Sys2Proof.Machine
end

section
namespace Sys2Proof.Machine

/-! ### A zone's block completes (R119, R123 to R129) -/

section Block

variable {a : AmonZone} {s : State}

theorem block_applies_iff (a : AmonZone) (s : State) : (blockDue a && applied a s) = true ↔ BlockApplies a s := by
  have due : blockDue a = true ↔ 1000 ≤ a.blockCount := decide_eq_true_iff
  rw [Bool.and_eq_true, due]
  simp [applied, BlockApplies, and_assoc]

/-- A block that applies: all of R119 to R128 but the window state, which is handed on. -/
theorem blockEnded_applied (applies : BlockApplies a s) : blockEnded s a = { afterBlock a with window := a.window } := by
  obtain ⟨due, uses⟩ := Bool.and_eq_true_iff.mp ((block_applies_iff a s).mpr applies)
  have freeze : a.freeze = .off := applies.2.2.1
  have silence : nextSilence a.fields a.silence (blockCode a) = (afterBlock a).silence := by
    have code : levelCode (a.blockSum / 1000) = blockCode a := rfl
    simp only [nextSilence, afterBlock, code]
    split
    · rfl
    · obtain quiet | loud := le_or_gt (blockCode a) a.fields.silLevel
      · rw [if_pos quiet, if_neg (Nat.not_lt.mpr quiet)]
        split <;> omega
      · rw [if_neg (Nat.not_le.mpr loud), if_pos loud]
  have ne : nextNe a.fields a.ne (blockCode a) = (afterBlock a).ne := rfl
  rw [blockEnded, if_neg (by simp [due]), if_pos uses, ne, silence]
  simp [beginBlock, afterBlock, freeze]

/-- The window state it hands on is R125's. -/
theorem nextWindow_afterBlock (a : AmonZone) :
    nextWindow a.fields a.window ((afterBlock a).ne / 16) (afterBlock a).silence (blockCode a) = (afterBlock a).window := by
  have flip : ∀ l h : Nat, (if l ≤ h then WindowState.loud else .normal) = if h < l then .normal else .loud := fun l h => by
    obtain le | lt := le_or_gt l h
    · rw [if_pos le, if_neg (Nat.not_lt.mpr le)]
    · rw [if_neg (Nat.not_le.mpr lt), if_pos lt]
  rw [nextWindow, flip]
  rfl

theorem blockEnded_window (s : State) (a : AmonZone) : (blockEnded s a).window = a.window := by
  unfold blockEnded
  split
  · rfl
  · split <;> rfl

/-- A block that does not apply leaves NE. -/
theorem blockEnded_ne (idle : ¬ BlockApplies a s) : (blockEnded s a).ne = a.ne := by
  unfold blockEnded
  split
  · rfl
  · next due =>
    have idle := mt (block_applies_iff a s).mp idle
    rw [if_neg (by simp_all)]
    rfl

end Block

/-- An output stage once its zone's block has completed with the window state unchanged (R129, R136). -/
def heardStage (h : Option Holder) (a b : AmonZone) (now : Nat) (x : ZosZone) : ZosZone :=
  if b.ne / 16 = a.ne / 16 then x else regained h b now x

theorem heardStage_same {h : Option Holder} {a b : AmonZone} (level : b.ne / 16 = a.ne / 16) (now : Nat) (x : ZosZone) :
    heardStage h a b now x = x := if_pos level

theorem heardStage_changed {h : Option Holder} {a b : AmonZone} (level : b.ne / 16 ≠ a.ne / 16) (now : Nat) :
    heardStage h a b now = regained h b now := funext fun _ => if_neg level

theorem heardStage_reheard {h : Option Holder} {a b : AmonZone} {s : State} (window : b.window = a.window) (x : ZosZone) :
    Reheard h a b x (heardStage h a b s.ptu.clock x) s := by
  by_cases level : b.ne / 16 = a.ne / 16
  · rw [heardStage_same level]
    exact ⟨fun _ _ => rfl, fun h => absurd level (h.resolve_right fun h => h window), fun _ => rfl, ⟨rfl, rfl⟩,
      fun h => by tauto⟩
  · rw [heardStage_changed level]
    have ramp : ∀ gt ga, rampTimer gt ga x.rampAt (s.ptu.clock + x.gain.ramp) = rampTo gt ga x s := fun gt ga => by
      unfold rampTimer rampTo
      cases x.rampAt <;> rfl
    exact ⟨fun h => absurd h level, fun _ => targetGain_eq h b x.gain, fun held => by simp [regained, held], ⟨rfl, rfl⟩,
      fun _ => ramp _ _⟩

theorem heardStage_ga {h : Option Holder} (held : emergencyHeld h = false) (a b : AmonZone) (now : Nat) (x : ZosZone) :
    (heardStage h a b now x).ga = x.ga := by
  unfold heardStage
  split
  · rfl
  · simp [regained, held]

/-! ### Blocks handed on zone by zone -/

section HandedOn

variable {s t : State} {z : ZoneNo}

/-- What a zone without a change of its window state hands on. -/
theorem blockHandedOn_quiet (amon : t.amon.get z = blockEnded s (s.amon.get z)) (ptu : t.ptu = s.ptu)
    (quiet : BlockApplies (s.amon.get z) s → (afterBlock (s.amon.get z)).window = (s.amon.get z).window) :
    blockHandedOn z (s.amon.get z) t
      = modZos z (heardStage (t.pctl.holders.get z) (s.amon.get z) (t.amon.get z) t.ptu.clock) t := by
  have same : applied (s.amon.get z) t = applied (s.amon.get z) s := by rw [applied, applied, ptu]
  have kept : ∀ f : ZosZone → ZosZone, f (t.zos.zones.get z) = t.zos.zones.get z → modZos z f t = t := fun f hf => by
    rw [modZos, modAt_eq_putAt, hf, putAt_self]
  rw [blockHandedOn, same]
  by_cases applies : BlockApplies (s.amon.get z) s
  · rw [if_pos ((block_applies_iff _ s).mpr applies)]
    have record := amon.trans (blockEnded_applied applies)
    have window : nextWindow (s.amon.get z).fields (s.amon.get z).window (noiseLevel (t.amon.get z)) (t.amon.get z).silence
        (blockCode (s.amon.get z)) = (s.amon.get z).window := by
      rw [record]
      exact (nextWindow_afterBlock _).trans (quiet applies)
    have still : ∀ u : State, u.amon = t.amon →
        setWindow z (nextWindow (s.amon.get z).fields (s.amon.get z).window (noiseLevel (t.amon.get z)) (t.amon.get z).silence
          (blockCode (s.amon.get z))) (some (blockCode (s.amon.get z))) u = u := fun u hu => by
      rw [setWindow, window, hu, if_pos (by rw [record])]
    by_cases level : noiseLevel (t.amon.get z) = noiseLevel (s.amon.get z)
    · rw [if_pos level, still t rfl, kept _ (heardStage_same level _ _)]
    · rw [if_neg level, heardStage_changed level, ← regain_eq]
      exact still (regain z t) rfl
  · rw [if_neg (mt (block_applies_iff _ s).mp applies), kept]
    exact heardStage_same (by rw [amon, blockEnded_ne applies]) _ _

/-- The state once some zones without a change of their window state have handed on their blocks. -/
def stagesHeard (s : State) (zs : List ZoneNo) (t : State) : State :=
  { t with
    zos := { t.zos with
      zones := Vector.ofFn fun z =>
        if z ∈ zs then heardStage (t.pctl.holders.get z) (s.amon.get z) (t.amon.get z) t.ptu.clock (t.zos.zones.get z)
        else t.zos.zones.get z } }

theorem stagesHeard_zone (zs : List ZoneNo) (y : ZoneNo) : (stagesHeard s zs t).zos.zones.get y
    = if y ∈ zs then heardStage (t.pctl.holders.get y) (s.amon.get y) (t.amon.get y) t.ptu.clock (t.zos.zones.get y)
      else t.zos.zones.get y := get_ofFn ..

/-- The stages are all that changes. -/
theorem stagesHeard_kept (zs : List ZoneNo) : (stagesHeard s zs t).pctl = t.pctl ∧ (stagesHeard s zs t).ptu = t.ptu
    ∧ (stagesHeard s zs t).deng = t.deng ∧ (stagesHeard s zs t).ctp = t.ctp ∧ (stagesHeard s zs t).ntu = t.ntu
    ∧ (stagesHeard s zs t).amon = t.amon := by
  simp only [stagesHeard, and_self]

theorem stagesHeard_cons {zs : List ZoneNo} (new : z ∉ zs) :
    stagesHeard s zs (modZos z (heardStage (t.pctl.holders.get z) (s.amon.get z) (t.amon.get z) t.ptu.clock) t)
      = stagesHeard s (z :: zs) t := by
  generalize first : modZos z (heardStage (t.pctl.holders.get z) (s.amon.get z) (t.amon.get z) t.ptu.clock) t = u
  have zones : (stagesHeard s zs u).zos.zones = (stagesHeard s (z :: zs) t).zos.zones := vector_ext_get fun y => by
    rw [stagesHeard_zone, stagesHeard_zone, ← first]
    by_cases e : y = z
    · subst e
      simp [new, modZos, modAt_eq_putAt]
    · simp [e, modZos, modAt_eq_putAt]
  have whole : stagesHeard s zs u = { t with zos := { t.zos with zones := (stagesHeard s zs u).zos.zones } } := by
    rw [← first]
    rfl
  rw [whole, zones]
  rfl

theorem foldl_blockHandedOn {zs : List ZoneNo} (distinct : zs.Nodup) (amon : ∀ z ∈ zs, t.amon.get z = blockEnded s (s.amon.get z))
    (ptu : t.ptu = s.ptu)
    (quiet : ∀ z ∈ zs, BlockApplies (s.amon.get z) s → (afterBlock (s.amon.get z)).window = (s.amon.get z).window) :
    zs.foldl (fun t z => blockHandedOn z (s.amon.get z) t) t = stagesHeard s zs t := by
  induction zs generalizing t with
  | nil =>
    have zones : (Vector.ofFn fun z => if z ∈ ([] : List ZoneNo) then
        heardStage (t.pctl.holders.get z) (s.amon.get z) (t.amon.get z) t.ptu.clock (t.zos.zones.get z)
        else t.zos.zones.get z) = t.zos.zones := vector_ext_get fun z => by simp
    rw [stagesHeard, zones, List.foldl_nil]
  | cons z zs ih =>
    obtain ⟨new, distinct⟩ := List.nodup_cons.mp distinct
    have rest := ih (t := modZos z (heardStage (t.pctl.holders.get z) (s.amon.get z) (t.amon.get z) t.ptu.clock) t) distinct
      (fun y hy => amon y (by simp [hy])) ptu fun y hy => quiet y (by simp [hy])
    rw [List.foldl_cons, blockHandedOn_quiet (amon z (by simp)) ptu (quiet z (by simp)), rest]
    exact stagesHeard_cons new

end HandedOn

end Sys2Proof.Machine
end

section
namespace Sys2Proof.Machine

/-! ### A zone becomes LOUD (R86, R125, R129) -/

section Loud

variable {s t : State} {z : ZoneNo}

/-- NOISE_STATE of a zone whose applied block makes it LOUD. -/
def loudNotice (z : ZoneNo) (a : AmonZone) : Notice :=
  .noiseState z .normal .loud ((afterBlock a).ne / 16) (some (levelCode (a.blockSum / 1000)))

/-- The state in which a zone has become LOUD, with a given output stage. -/
def turnedLoud (z : ZoneNo) (a : AmonZone) (x : ZosZone) (t : State) : State :=
  { t with
    amon := putAt t.amon z (afterBlock a)
    zos := { t.zos with zones := putAt t.zos.zones z x }
    ntu := ntuAfter [loudNotice z a] t.ptu t.ntu }

/-- The stage is heard with the new window state, and PCTL told. -/
theorem setWindow_loud {a : AmonZone} {u : State} (noise : u.amon.get z = { afterBlock a with window := .normal })
    (loud : (afterBlock a).window = .loud) : setWindow z .loud (some (blockCode a)) u
      = loudChanged (turnedLoud z a (regained (u.pctl.holders.get z) (afterBlock a) u.ptu.clock (u.zos.zones.get z)) u) := by
  have whole : { afterBlock a with window := .loud } = afterBlock a := by rw [← loud]
  have taken : modAmon z (fun a => { a with window := .loud }) u = { u with amon := putAt u.amon z (afterBlock a) } := by
    rw [modAmon, modAt_eq_putAt, noise]
    exact congrArg (fun b => { u with amon := putAt u.amon z b }) whole
  have window : (u.amon.get z).window = .normal := by rw [noise]
  have level : noiseLevel (u.amon.get z) = (afterBlock a).ne / 16 := by rw [noise, noiseLevel]
  have told : regain z (raiseNotice (.noiseState z .normal .loud ((afterBlock a).ne / 16) (some (blockCode a)))
      { u with amon := putAt u.amon z (afterBlock a) })
      = turnedLoud z a (regained (u.pctl.holders.get z) (afterBlock a) u.ptu.clock (u.zos.zones.get z)) u := by
    rw [regain_eq, raiseNotice_ntuAfter]
    simp only [modZos, modAt_eq_putAt, get_putAt, if_true]
    rfl
  have changed : ¬ (WindowState.loud = .loud) = (WindowState.normal = .loud) := by simp
  rw [setWindow, if_neg (by rw [window]; simp), taken, window, level]
  exact (if_neg changed).trans (congrArg loudChanged told)

theorem blockHandedOn_loud (noise : t.amon.get z = blockEnded s (s.amon.get z)) (ptu : t.ptu = s.ptu)
    (applies : BlockApplies (s.amon.get z) s) (before : (s.amon.get z).window = .normal)
    (loud : (afterBlock (s.amon.get z)).window = .loud) (quiet : emergencyHeld (t.pctl.holders.get z) = false) :
    ∃ x, blockHandedOn z (s.amon.get z) t = loudChanged (turnedLoud z (s.amon.get z) x t)
      ∧ x.ga = (t.zos.zones.get z).ga ∧ x.fifo = (t.zos.zones.get z).fifo := by
  have uses : (blockDue (s.amon.get z) && applied (s.amon.get z) t) = true := by
    rw [applied, ptu]
    exact (block_applies_iff _ s).mpr applies
  have record : t.amon.get z = { afterBlock (s.amon.get z) with window := .normal } := by
    rw [noise, blockEnded_applied applies, before]
  have window : nextWindow (s.amon.get z).fields (s.amon.get z).window (noiseLevel (t.amon.get z)) (t.amon.get z).silence
      (blockCode (s.amon.get z)) = .loud := by
    rw [record]
    exact (nextWindow_afterBlock _).trans loud
  have heard := fun u : State => setWindow_loud (z := z) (a := s.amon.get z) (u := u)
  rw [blockHandedOn, if_pos uses, window]
  by_cases level : noiseLevel (t.amon.get z) = noiseLevel (s.amon.get z)
  · rw [if_pos level]
    exact ⟨_, heard t record loud, by simp [regained, quiet], rfl⟩
  · rw [if_neg level]
    refine ⟨regained (t.pctl.holders.get z) (afterBlock (s.amon.get z)) t.ptu.clock
      (regained (t.pctl.holders.get z) (t.amon.get z) t.ptu.clock (t.zos.zones.get z)), ?_, by simp [regained, quiet], rfl⟩
    refine (heard (regain z t) record loud).trans (congrArg loudChanged ?_)
    simp only [turnedLoud, regain_eq, modZos, modAt_eq_putAt, putAt_putAt, get_putAt, if_true]

end Loud

/-! ### Blocks complete, and one zone becomes LOUD -/

/-- The moment at which a zone has become LOUD and PCTL has not yet reacted; the zones of a list have handed on their blocks before. -/
structure LoudTurn (z : ZoneNo) (earlier : List ZoneNo) (s v : State) : Prop where
  pctl : v.pctl = s.pctl
  kept : v.ptu = s.ptu ∧ v.deng = s.deng ∧ v.ctp = s.ctp
  own : v.amon.get z = afterBlock (s.amon.get z)
  amon : ∀ y, y ≠ z → v.amon.get y = blockEnded s (s.amon.get y)
  stage : (v.zos.zones.get z).ga = (s.zos.zones.get z).ga ∧ (v.zos.zones.get z).fifo = (s.zos.zones.get z).fifo
  stages : ∀ y, y ≠ z → v.zos.zones.get y = if y ∈ earlier then
    heardStage (s.pctl.holders.get y) (s.amon.get y) (blockEnded s (s.amon.get y)) s.ptu.clock (s.zos.zones.get y) else s.zos.zones.get y
  ntu : v.ntu = ntuAfter [loudNotice z (s.amon.get z)] s.ptu s.ntu

/-- The blocks complete up to the zone that becomes LOUD, and then those of the zones behind it. -/
theorem exists_loudTurn {s : State} {z : ZoneNo} (order : List ZoneNo) (applies : BlockApplies (s.amon.get z) s)
    (before : (s.amon.get z).window = .normal) (loud : (afterBlock (s.amon.get z)).window = .loud)
    (held : emergencyHeld (s.pctl.holders.get z) = false)
    (quiet : ∀ y, y ≠ z → BlockApplies (s.amon.get y) s → (afterBlock (s.amon.get y)).window = (s.amon.get y).window) :
    ∃ v earlier later, LoudTurn z earlier s v ∧ (earlier ++ z :: later).Nodup ∧ (∀ y, y ∈ earlier ++ z :: later)
      ∧ completeBlocks order s = later.foldl (fun t y => blockHandedOn y (s.amon.get y) t) (loudChanged v) := by
  obtain ⟨earlier, later, split⟩ := List.append_of_mem (mem_zoneOrder order z)
  have distinct := split ▸ nodup_zoneOrder order
  obtain ⟨alone, -, apart⟩ := List.nodup_append.mp distinct
  have new : z ∉ earlier := fun hz => apart z hz z (by simp) rfl
  have ended : ∀ y, (Vector.ofFn fun z => blockEnded s (s.amon.get z)).get y = blockEnded s (s.amon.get y) := fun y => get_ofFn ..
  have first := foldl_blockHandedOn (s := s) (t := { s with amon := Vector.ofFn fun z => blockEnded s (s.amon.get z) }) alone
    (fun y _ => ended y) rfl fun y hy => quiet y fun e => new (e ▸ hy)
  generalize prior : stagesHeard s earlier { s with amon := Vector.ofFn fun z => blockEnded s (s.amon.get z) } = w at first
  have zone : ∀ y, w.zos.zones.get y = if y ∈ earlier then
      heardStage (s.pctl.holders.get y) (s.amon.get y) (blockEnded s (s.amon.get y)) s.ptu.clock (s.zos.zones.get y)
      else s.zos.zones.get y := fun y => by
    rw [← prior, stagesHeard_zone]
    simp only [ended]
  obtain ⟨pctl, ptu, deng, ctp, ntu, amon⟩ :=
    stagesHeard_kept (s := s) (t := { s with amon := Vector.ofFn fun z => blockEnded s (s.amon.get z) }) earlier
  rw [prior] at pctl ptu deng ctp ntu amon
  have amon : ∀ y, w.amon.get y = blockEnded s (s.amon.get y) := fun y => by rw [amon, ended]
  obtain ⟨x, turns, ga, fifo⟩ := blockHandedOn_loud (amon z) ptu applies before loud (by rw [pctl]; exact held)
  rw [zone z, if_neg new] at ga fifo
  refine ⟨turnedLoud z (s.amon.get z) x w, earlier, later, ⟨pctl, ⟨ptu, deng, ctp⟩, ?_, fun y ne => ?_, ?_, fun y ne => ?_, ?_⟩,
    distinct, fun y => split ▸ mem_zoneOrder order y, ?_⟩
  · exact (get_putAt ..).trans (if_pos rfl)
  · exact ((get_putAt ..).trans (if_neg ne)).trans (amon y)
  · have own : (turnedLoud z (s.amon.get z) x w).zos.zones.get z = x := (get_putAt ..).trans (if_pos rfl)
    rw [own]
    exact ⟨ga, fifo⟩
  · exact ((get_putAt ..).trans (if_neg ne)).trans (zone y)
  · rw [turnedLoud, ptu, ntu]
  · rw [completeBlocks, split, List.foldl_append, List.foldl_cons, first, turns]

section Turn

variable {p : PageNo} {r : PageRec} {z : ZoneNo} {earlier : List ZoneNo} {s v : State}

/-- A page of BACKGROUND is no EMERGENCY page. -/
theorem emergencyHeld_background {h : Option Holder} (background : ∀ k, h = some k → k.priority = .background) : emergencyHeld h = false := by
  cases h with
  | none => rfl
  | some k => simp [emergencyHeld, background k rfl]

theorem LoudTurn.alone (turn : LoudTurn z earlier s v) (alone : HoldsAlone p r s) (background : r.priority = .background) :
    HoldsAlone p r v where
  page := by rw [turn.pctl]; exact alone.page
  order := by rw [turn.pctl]; exact alone.order
  begun := alone.begun
  entries := by rw [turn.pctl]; exact alone.entries
  audible y hy := by
    rw [heldZones_congr (s := s) (by rw [turn.pctl])] at hy
    have loud := alone.audible y hy
    by_cases e : y = z
    · rw [e, turn.stage.1, ← e]
      exact loud
    · obtain ⟨h, held, page⟩ := mem_heldZones.mp hy
      rw [turn.stages y e]
      split
      · rwa [heardStage_ga (emergencyHeld_background fun k hk => ?_)]
        obtain rfl := Option.some.inj (held.symm.trans hk)
        rw [(alone.entries y h held page).1, background]
      · exact loud

theorem LoudTurn.wanted (turn : LoudTurn z earlier s v) (begun : r.state = .preamble ∨ r.state = .active)
    (current : r.wanted = wantedOf r s) (background : r.priority = .background) (loud : (afterBlock (s.amon.get z)).window = .loud) :
    wantedOf r v = r.wanted.filter (· ≠ z) := by
  rw [current, wantedOf_eq begun, wantedOf_eq begun, floorZones, floorZones, List.filter_filter, turn.pctl]
  refine List.filter_congr fun y _ => ?_
  by_cases e : y = z
  · rw [e, turn.own, loud, background]
    simp
  · rw [turn.amon y e, blockEnded_window, decide_eq_true e, Bool.true_and]

end Turn

end Sys2Proof.Machine
end

section
namespace Sys2Proof.Machine

/-! ### The page lets the LOUD zone go (R86, R129) -/

section Turn

variable {p : PageNo} {r : PageRec} {z : ZoneNo} {earlier later : List ZoneNo} {s v : State}

/-- A BACKGROUND page reacts to the LOUD zone. -/
theorem LoudTurn.settled (turn : LoudTurn z earlier s v) (alone : HoldsAlone p r s) (current : r.wanted = wantedOf r s)
    (holds : ∀ z ∈ r.wanted, z ∈ heldZones p s) (background : r.priority = .background)
    (loud : (afterBlock (s.amon.get z)).window = .loud) : loudChanged v = refreshed p r .loud v := by
  refine refreshWanted_alone (turn.alone alone background) (fun y hy => ?_) (by simp [background])
  rw [turn.wanted alone.begun current background loud] at hy
  rw [heldZones_congr (s := s) (by rw [turn.pctl])]
  exact holds y (List.mem_filter.mp hy).1

/-- Every zone but the LOUD one stays as it was, held or let go. -/
theorem kept_flag (alone : HoldsAlone p r s) {y : ZoneNo} {h : Holder} (ne : y ≠ z) (held : s.pctl.holders.get y = some h)
    (page : h.page = p) : h.lettingGo = decide (y ∉ r.wanted.filter (· ≠ z)) := by
  have entry := (alone.entries y h held page).2
  have same : y ∈ r.wanted.filter (· ≠ z) ↔ y ∈ r.wanted := by simp [ne]
  rw [← same] at entry
  exact Bool.eq_iff_iff.mpr (entry.trans decide_eq_true_iff.symm)

theorem leaves_congr {wanted : List ZoneNo} {t : State} (h : t.pctl = s.pctl) : leaves wanted t = leaves wanted s :=
  funext fun z => by rw [leaves, leaves, h]

/-- The zone is the only one that leaves. -/
theorem leaving_one {l : List ZoneNo} (distinct : l.Nodup) (mem : z ∈ l) : l.filter (· ∉ l.filter (· ≠ z)) = [z] := by
  refine List.perm_singleton.mp ((List.perm_ext_iff_of_nodup (distinct.filter _) (List.nodup_singleton z)).mpr fun y => ?_)
  simp only [List.mem_filter, List.mem_singleton, decide_eq_true_eq]
  constructor
  · rintro ⟨hy, out⟩
    exact by_contra fun ne => out ⟨hy, ne⟩
  · rintro rfl
    exact ⟨mem, fun both => both.2 rfl⟩

section Refreshed

variable (turn : LoudTurn z earlier s v) (alone : HoldsAlone p r s) (current : r.wanted = wantedOf r s)
  (background : r.priority = .background) (loud : (afterBlock (s.amon.get z)).window = .loud)

include turn alone current background loud

theorem LoudTurn.refreshed_pctl : (refreshed p r .loud v).pctl = { s.pctl with
    pages := putAt s.pctl.pages p (some { r with wanted := r.wanted.filter (· ≠ z) })
    holders := Vector.ofFn fun y => (s.pctl.holders.get y).map (revisedHolder p (r.wanted.filter (· ≠ z)) y) } := by
  rw [Machine.refreshed_pctl, turn.wanted alone.begun current background loud, turn.pctl]

theorem LoudTurn.refreshed_holder {y : ZoneNo} (ne : y ≠ z) :
    (refreshed p r .loud v).pctl.holders.get y = s.pctl.holders.get y := by
  rw [refreshed_holders, turn.wanted alone.begun current background loud, turn.pctl]
  cases held : s.pctl.holders.get y with
  | none => rfl
  | some h =>
    rw [Option.map_some, revisedHolder]
    split
    · next page => rw [← kept_flag alone ne held page]
    · rfl

theorem LoudTurn.refreshed_stage {y : ZoneNo} (ne : y ≠ z) :
    (refreshed p r .loud v).zos.zones.get y = v.zos.zones.get y := by
  rw [refreshed_zone, turn.wanted alone.begun current background loud, revisedStage_same]
  rw [turn.pctl]
  exact fun h held page => kept_flag alone ne held page

/-- The LOUD zone is let go. -/
theorem LoudTurn.refreshed_own {h : Holder} (wants : z ∈ r.wanted) (held : s.pctl.holders.get z = some h) (page : h.page = p) :
    (refreshed p r .loud v).zos.zones.get z
      = heldStage { h with lettingGo := true } (v.amon.get z) (v.zos.zones.get z) v := by
  have out : decide (z ∉ r.wanted.filter (· ≠ z)) = true := by simp
  have held' : v.pctl.holders.get z = some h := by rw [turn.pctl, held]
  have letting : h.lettingGo ≠ decide (z ∉ r.wanted.filter (· ≠ z)) := by
    rw [out]
    exact fun e => (alone.entries z h held page).2.mp e wants
  rw [refreshed_zone, turn.wanted alone.begun current background loud, revisedStage_turned held' page letting, out]

theorem LoudTurn.refreshed_ntu (holds : ∀ z ∈ r.wanted, z ∈ heldZones p s) (wants : z ∈ r.wanted) : (refreshed p r .loud v).ntu
    = ntuAfter [loudNotice z (s.amon.get z), .zoneLost p z .loud none] s.ptu s.ntu := by
  have distinct : r.wanted.Nodup := by
    rw [current, wantedOf_eq alone.begun]
    exact floorZones_nodup ..
  rw [Machine.refreshed_ntu, turn.wanted alone.begun current background loud, leaves_congr turn.pctl,
    heldZones_congr (s := s) (by rw [turn.pctl]), held_leaves alone current holds, leaving_one distinct wants, turn.kept.1, turn.ntu,
    ntuAfter_ntuAfter]
  rfl

end Refreshed

/-- A block completes that makes a zone of a BACKGROUND page LOUD. -/
theorem blockComplete_loud (alone : HoldsAlone p r s) (current : r.wanted = wantedOf r s) (holds : ∀ z ∈ r.wanted, z ∈ heldZones p s)
    (order : List ZoneNo) (background : r.priority = .background) (wants : z ∈ r.wanted) :
    let a := s.amon.get z
    let b := afterBlock a
    BlockApplies a s → a.window = .normal → b.window = .loud →
    (∀ y, y ≠ z → BlockApplies (s.amon.get y) s → (afterBlock (s.amon.get y)).window = (s.amon.get y).window) →
    ∃ t, exec (.blockComplete order) s = .next t
      ∧ t.amon.get z = b
      ∧ t.pctl = { s.pctl with
          pages := putAt s.pctl.pages p (some { r with wanted := r.wanted.filter (· ≠ z) })
          holders := Vector.ofFn fun y => (s.pctl.holders.get y).map fun h =>
            if h.page = p then { h with lettingGo := decide (y ∉ r.wanted.filter (· ≠ z)) } else h }
      ∧ (t.zos.zones.get z).gt = 0 ∧ (t.zos.zones.get z).ga = (s.zos.zones.get z).ga
      ∧ (t.zos.zones.get z).fifo = (s.zos.zones.get z).fifo ∧ (t.zos.zones.get z).rampAt.isSome = true
      ∧ (∀ y, y ≠ z → (BlockApplies (s.amon.get y) s → t.amon.get y = afterBlock (s.amon.get y))
        ∧ Reheard (s.pctl.holders.get y) (s.amon.get y) (t.amon.get y) (s.zos.zones.get y) (t.zos.zones.get y) s)
      ∧ t.ntu = (raiseAll [.noiseState z .normal .loud (b.ne / 16) (some (levelCode (a.blockSum / 1000))),
          .zoneLost p z .loud none] s).ntu
      ∧ SameInputs s t ∧ t.ptu = s.ptu ∧ t.deng = s.deng ∧ t.ctp = s.ctp := by
  intro a b applies before loud quiet
  obtain ⟨h, held, page⟩ := mem_heldZones.mp (holds z wants)
  have ranks : ∀ k, s.pctl.holders.get z = some k → k.priority = .background := fun k hk => by
    obtain rfl := Option.some.inj (held.symm.trans hk)
    rw [(alone.entries z h held page).1, background]
  obtain ⟨v, earlier, later, turn, distinct, all, completes⟩ :=
    exists_loudTurn order applies before loud (emergencyHeld_background ranks) quiet
  obtain ⟨-, rest, apart⟩ := List.nodup_append.mp distinct
  obtain ⟨new, rest⟩ := List.nodup_cons.mp rest
  have ne : ∀ {y}, y ∈ later → y ≠ z := fun hy e => new (e ▸ hy)
  obtain ⟨ptu, deng, -, amon, ctp, -⟩ := refreshed_kept (p := p) (r := r) (why := .loud) (s := v)
  have tail := foldl_blockHandedOn (s := s) (t := refreshed p r .loud v) rest (fun y hy => by rw [amon, turn.amon y (ne hy)])
    (ptu.trans turn.kept.1) fun y hy => quiet y (ne hy)
  rw [turn.settled alone current holds background loud, tail] at completes
  obtain ⟨pctl', ptu', deng', ctp', ntu', amon'⟩ := stagesHeard_kept (s := s) (t := refreshed p r .loud v) later
  have moves := moves_completeBlocks order s
  rw [completes] at moves
  have zone : ∀ y, y ∉ later → (stagesHeard s later (refreshed p r .loud v)).zos.zones.get y
      = (refreshed p r .loud v).zos.zones.get y := fun y hy => by rw [stagesHeard_zone, if_neg hy]
  have stage : (stagesHeard s later (refreshed p r .loud v)).zos.zones.get z
      = heldStage { h with lettingGo := true } (v.amon.get z) (v.zos.zones.get z) v := by
    rw [zone z new, turn.refreshed_own alone current background loud wants held page]
  have audible := alone.audible z (holds z wants)
  rw [← turn.stage.1] at audible
  refine ⟨_, congrArg Host.Outcome.next completes, ?_, ?_, ?_, ?_, ?_, ?_, fun y apartY => ⟨fun applies => ?_, ?_⟩, ?_, moves.sameInputs,
    moves.fixed.2.1, ?_, ?_⟩
  · rw [amon', amon, turn.own]
  · rw [pctl', turn.refreshed_pctl alone current background loud]
    rfl
  · rw [stage]
    simp [heldStage, soughtGain]
  · rw [stage, ← turn.stage.1]
    simp [heldStage]
  · rw [stage, ← turn.stage.2]
    simp [heldStage]
  · rw [stage]
    simp [heldStage, soughtGain, rampTo, audible]
  · rw [amon', amon, turn.amon y apartY, blockEnded_applied applies, ← quiet y apartY applies]
  · have heard := heardStage_reheard (h := s.pctl.holders.get y) (s := s) (blockEnded_window s (s.amon.get y)) (s.zos.zones.get y)
    have final : (stagesHeard s later (refreshed p r .loud v)).zos.zones.get y
        = heardStage (s.pctl.holders.get y) (s.amon.get y) (blockEnded s (s.amon.get y)) s.ptu.clock (s.zos.zones.get y) := by
      have kept := turn.refreshed_stage alone current background loud apartY
      by_cases hy : y ∈ later
      · have first : y ∉ earlier := fun he => apart y he y (List.mem_cons_of_mem z hy) rfl
        rw [stagesHeard_zone, if_pos hy, kept, turn.refreshed_holder alone current background loud apartY, amon, ptu, turn.kept.1,
          turn.amon y apartY, turn.stages y apartY, if_neg first]
      · have first : y ∈ earlier := by simpa [apartY, hy] using all y
        rw [zone y hy, kept, turn.stages y apartY, if_pos first]
    rw [amon', amon, turn.amon y apartY, final]
    exact heard
  · rw [ntu', turn.refreshed_ntu alone current background loud holds wants, raiseAll_ntuAfter]
    rfl
  · rw [deng', deng, turn.kept.2.1]
  · rw [ctp', ctp, turn.kept.2.2]

end Turn

end Sys2Proof.Machine
end

section
namespace Sys2Proof.Machine

/-- Settles O50: a page that is alone, in PREAMBLE or ACTIVE, with no silent zone; what a write or a block does to its
zones follows from computing its wanted set again, after which no report and no pass changes anything. -/
theorem zonesLost : Obligations.ZonesLost := by
  intro p s r ready page order begun current holds entries audible
  have alone : HoldsAlone p r s := ⟨page, order, begun, entries, audible⟩
  refine ⟨fun z h d be port held mine on window => ?_, fun z blocks background wants => ?_, fun d be port => ?_⟩
  · exact zoneRecordWrite_disabled ready alone current holds d be port held mine on window
  · exact blockComplete_loud alone current holds blocks background wants
  · exact pageTargetWrite_alone ready alone current holds d be port

end Sys2Proof.Machine
end
